-- ==== Sys2Proof/Word.lean ====
section
/-! DEFINITION. The word types of AKDV (spec/00_scope.md R11: every value is an unsigned integer of n bits). -/

namespace Sys2Proof

/-- One byte: a transfer on KEYIN or OUT, a container byte, a sample of an RGB triple. -/
abbrev Byte := BitVec 8

/-- A 32-bit unsigned value: a command argument, a response on RSP, a counter. -/
abbrev Word := BitVec 32

end Sys2Proof
end

