-- ==== Sys2Proof/Config.lean ====
section
/-! DEFINITION. The parameters of an implementation (spec/00_scope.md R6). The fixed ones are widths in the types.
MAXPIX is an argument of the model: a field of State that no operation changes. BUS_MAP has no effect on any rule
(spec/20_memory.md R58) and is not represented. -/

namespace Sys2Proof.Config

/-- The longest run an RLE byte holds (00_scope.md R6, "length: 1..=127"). -/
def maxRun : Nat := 127

/-- The capacity that State.reset starts with: "suggested default 2^20 for tests" (92_eei_decisions.md D16).
DESIGN CHOICE, log entry 1: unsafe for a statement about State.reset itself; every statement over all states is
over every value of the field. -/
def defaultMaxPix : Word := 0x100000#32

end Sys2Proof.Config
end

