-- ==== Sys2Proof/Syntax.lean ====
section
/-! DEFINITION. The operations of AKDV as syntax: channels, transfers, phases and the one inductive Instr with a
constructor for each row of spec/opcode_table.json. The phase stands here because it decides which wire token a
byte on RX is (spec/30_encoding.md R80). -/

namespace Sys2Proof

/-- An RGB triple of three unsigned 8-bit samples (30_encoding.md R75): a raw pixel or a cell of the grid. -/
structure Rgb where
  r : Byte
  g : Byte
  b : Byte
  deriving DecidableEq, Repr

/-- Where inside a session the block is (10_state.md R23). Codes 12 to 15 are never taken. -/
inductive Phase where
  | pNone | eFrame | eKey | eGrid | ePix | dHdr | dCont | dType | dKsize | dKey | dGrid | dRle
  deriving DecidableEq, Repr

/-- The six input channels (00_scope.md R10). -/
inductive Channel where
  | cmd | keyin | gridin | pixin | rx | errin
  deriving DecidableEq, Repr

/-- One transfer offered on an input channel, with the payload width of that channel (00_scope.md R10,
30_encoding.md R70, R74 to R76). The 9-bit payload of RX is the end-of-stream mark above the byte. -/
inductive Transfer where
  | cmd (w : BitVec 48)
  | keyin (w : Byte)
  | gridin (w : BitVec 24)
  | pixin (w : BitVec 24)
  | rx (w : BitVec 9)
  | errin (w : BitVec 2)
  deriving DecidableEq, Repr

/-- The channel a transfer is offered on. -/
def Transfer.channel : Transfer → Channel
  | .cmd _ => .cmd
  | .keyin _ => .keyin
  | .gridin _ => .gridin
  | .pixin _ => .pixin
  | .rx _ => .rx
  | .errin _ => .errin

/-- The operations, one constructor for each row of spec/opcode_table.json. Fields a command ignores
(30_encoding.md R72) are no operands. The wire rows are the tokens of the container as RX.BYTE takes them, each in
its own phase (30_encoding.md R80). -/
inductive Instr where
  /-- CFG.WR n, v (R201). -/
  | cfgWr (n : Byte) (v : Word)
  /-- CFG.RD n (R202). -/
  | cfgRd (n : Byte)
  /-- ACC.RD i (R203). -/
  | accRd (i : Word)
  /-- START.ENC (R150). -/
  | startEnc
  /-- START.DEC (R170). -/
  | startDec
  /-- FRAME.BEGIN k (R153). -/
  | frameBegin (k : Word)
  /-- END (R156). -/
  | endEnc
  /-- RESET (R204). -/
  | reset
  /-- KEY.BYTE b (R154). -/
  | keyByte (b : Byte)
  /-- GRID.LD r, g, b (R113). -/
  | gridLd (c : Rgb)
  /-- PIX.ENC r, g, b (R115). -/
  | pixEnc (c : Rgb)
  /-- RX.BYTE b (R172). -/
  | rxByte (b : Byte)
  /-- RX.EOS (R180). -/
  | rxEos
  /-- SIG.ERR k (R205). -/
  | sigErr (k : BitVec 2)
  /-- Header byte 0, `a` (R173). -/
  | wireMagic0
  /-- Header byte 1, `k` (R173). -/
  | wireMagic1
  /-- Header byte 2, `-` (R173). -/
  | wireMagic2
  /-- Header byte 3, `c` (R173). -/
  | wireMagic3
  /-- A byte of width, header bytes 4 to 7 (R173). -/
  | wireWidth (v : Byte)
  /-- A byte of height, header bytes 8 to 11 (R173). -/
  | wireHeight (v : Byte)
  /-- A byte of fps, header bytes 12 and 13 (R173). -/
  | wireFps (v : Byte)
  /-- Continuation byte 0: a chunk follows (R174). -/
  | wireContChunk
  /-- Continuation byte 1: the end marker (R174). -/
  | wireContEnd
  /-- Chunk type 0: video (R175). -/
  | wireTypeVideo
  /-- A byte of keyImageSize (R176). -/
  | wireKsize (v : Byte)
  /-- A byte of the compressed key image (R177). -/
  | wireKey (b : Byte)
  /-- A run of zeros (R137). -/
  | wireRleRun0 (len : BitVec 7)
  /-- A run of ones (R137). -/
  | wireRleRun1 (len : BitVec 7)
  deriving DecidableEq, Repr

end Sys2Proof
end

