-- ==== Sys2Proof/WellFormed.lean ====
section
/-! DEFINITION. Which terms of Instr are operations of AKDV: the operand values the encodings do not reserve
(spec/30_encoding.md R73, R76). A run byte of length 0 is not refused here: RX.BYTE accepts the transfer and takes
the RleZeroLength fault (spec/42_rle.md R137). -/

namespace Sys2Proof

/-- An operation is well formed when its operand is no reserved encoding: CFG.WR names a register 0 to 3, CFG.RD a
register 0 to 9, SIG.ERR a kind 0 to 2. -/
def Instr.wellFormed : Instr → Bool
  | .cfgWr n _ => decide (n.toNat ≤ 3)
  | .cfgRd n => decide (n.toNat ≤ 9)
  | .accRd _ => true
  | .startEnc => true
  | .startDec => true
  | .frameBegin _ => true
  | .endEnc => true
  | .reset => true
  | .keyByte _ => true
  | .gridLd _ => true
  | .pixEnc _ => true
  | .rxByte _ => true
  | .rxEos => true
  | .sigErr k => decide (k.toNat ≤ 2)
  | .wireMagic0 => true
  | .wireMagic1 => true
  | .wireMagic2 => true
  | .wireMagic3 => true
  | .wireWidth _ => true
  | .wireHeight _ => true
  | .wireFps _ => true
  | .wireContChunk => true
  | .wireContEnd => true
  | .wireTypeVideo => true
  | .wireKsize _ => true
  | .wireKey _ => true
  | .wireRleRun0 _ => true
  | .wireRleRun1 _ => true

end Sys2Proof
end

