-- ==== Sys2Proof/Decode.lean ====
section
/-! DEFINITION. Decoding a transfer and encoding an operation (spec/30_encoding.md), and the host's reading of a
word of spec/opcode_table.json. Decoding is total: a reserved encoding is rejected by name. -/

namespace Sys2Proof

/-- Why a transfer stands for no operation. Such a transfer is never accepted (30_encoding.md R73, R76, R89). -/
inductive Reject where
  /-- An `op` outside the table of R71. -/
  | reservedOp
  /-- CFG.WR with `sel` outside 0..3 or CFG.RD with `sel` outside 0..9 (R73). -/
  | reservedRegister
  /-- SIG.ERR with kind 3 (R76). -/
  | reservedKind
  deriving DecidableEq, Repr

/-- What the decoder answers. -/
inductive Decoded where
  | ok (i : Instr)
  | rejected (why : Reject)
  deriving DecidableEq, Repr

/-! ### Fields of the formats -/

/-- `op`, bits 47:40 of a command word (R70). -/
def cmdOp (w : BitVec 48) : Byte := w.extractLsb' 40 8

/-- `sel`, bits 39:32 of a command word (R70). -/
def cmdSel (w : BitVec 48) : Byte := w.extractLsb' 32 8

/-- `arg`, bits 31:0 of a command word (R70). -/
def cmdArg (w : BitVec 48) : Word := w.extractLsb' 0 32

/-- A command word from its fields (R70). -/
def cmdWord (op sel : Byte) (arg : Word) : BitVec 48 := op ++ sel ++ arg

/-- The triple of a 24-bit payload: R = bits 7:0, G = bits 15:8, B = bits 23:16 (R75). -/
def rgbOfWord (w : BitVec 24) : Rgb :=
  ⟨w.extractLsb' 0 8, w.extractLsb' 8 8, w.extractLsb' 16 8⟩

/-- The 24-bit payload of a triple (R75). -/
def rgbWord (c : Rgb) : BitVec 24 := c.b ++ c.g ++ c.r

/-- The end-of-stream mark of an RX payload, bit 8 (R74). -/
def rxEosMark (w : BitVec 9) : Bool := w.getLsbD 8

/-- The byte of an RX payload, bits 7:0 (R74). -/
def rxData (w : BitVec 9) : Byte := w.extractLsb' 0 8

/-- The 9-bit payload that carries a container byte (R74, R90). -/
def rxWord (b : Byte) : BitVec 9 := 0#1 ++ b

/-- `flag` of a run byte, bit 7 (R87). -/
def rleFlag (b : Byte) : Bool := b.getLsbD 7

/-- `length` of a run byte, bits 6:0 (R87). -/
def rleLength (b : Byte) : BitVec 7 := b.extractLsb' 0 7

/-- The run byte `flag << 7 | length` (R87). -/
def rleByte (flag : Bool) (len : BitVec 7) : Byte := BitVec.ofBool flag ++ len

/-! ### Decoding -/

/-- The command operations, selected by `op` alone (R71); reserved words are rejected by name (R73). -/
def decodeCmd (w : BitVec 48) : Decoded :=
  if cmdOp w = 0x01#8 then
    if (cmdSel w).toNat ≤ 3 then .ok (.cfgWr (cmdSel w) (cmdArg w)) else .rejected .reservedRegister
  else if cmdOp w = 0x02#8 then
    if (cmdSel w).toNat ≤ 9 then .ok (.cfgRd (cmdSel w)) else .rejected .reservedRegister
  else if cmdOp w = 0x03#8 then .ok (.accRd (cmdArg w))
  else if cmdOp w = 0x10#8 then .ok .startEnc
  else if cmdOp w = 0x11#8 then .ok .startDec
  else if cmdOp w = 0x12#8 then .ok (.frameBegin (cmdArg w))
  else if cmdOp w = 0x13#8 then .ok .endEnc
  else if cmdOp w = 0x1F#8 then .ok .reset
  else .rejected .reservedOp

/-- The operation a transfer is, by its channel (R70 to R76). -/
def decodeTransfer : Transfer → Decoded
  | .cmd w => decodeCmd w
  | .keyin b => .ok (.keyByte b)
  | .gridin w => .ok (.gridLd (rgbOfWord w))
  | .pixin w => .ok (.pixEnc (rgbOfWord w))
  | .rx w => if rxEosMark w then .ok .rxEos else .ok (.rxByte (rxData w))
  | .errin k => if k.toNat ≤ 2 then .ok (.sigErr k) else .rejected .reservedKind

/-- The token of header byte number `i` (R81, R82); none where the byte is not the magic's, or past the header. -/
def decodeHeader (i : Nat) (b : Byte) : Option Instr :=
  match i with
  | 0 => if b = 0x61#8 then some .wireMagic0 else none
  | 1 => if b = 0x6B#8 then some .wireMagic1 else none
  | 2 => if b = 0x2D#8 then some .wireMagic2 else none
  | 3 => if b = 0x63#8 then some .wireMagic3 else none
  | 4 => some (.wireWidth b)
  | 5 => some (.wireWidth b)
  | 6 => some (.wireWidth b)
  | 7 => some (.wireWidth b)
  | 8 => some (.wireHeight b)
  | 9 => some (.wireHeight b)
  | 10 => some (.wireHeight b)
  | 11 => some (.wireHeight b)
  | 12 => some (.wireFps b)
  | 13 => some (.wireFps b)
  | _ => none

/-- The wire token a container byte is at a phase and a place `sub` (R80, R89); none where the byte is no token
there: a wrong magic, continuation or type byte, or a phase in which RX holds no token. -/
def decodeWire (ph : Phase) (sub : Word) (b : Byte) : Option Instr :=
  match ph with
  | .pNone => none
  | .eFrame => none
  | .eKey => none
  | .eGrid => none
  | .ePix => none
  | .dHdr => decodeHeader sub.toNat b
  | .dCont => if b = 0x00#8 then some .wireContChunk else if b = 0x01#8 then some .wireContEnd else none
  | .dType => if b = 0x00#8 then some .wireTypeVideo else none
  | .dKsize => if sub.toNat < 4 then some (.wireKsize b) else none
  | .dKey => some (.wireKey b)
  | .dGrid => none
  | .dRle => if rleFlag b then some (.wireRleRun1 (rleLength b)) else some (.wireRleRun0 (rleLength b))

/-- The decoder of the block: the transfer's operation, and for a container byte the wire token it is in the
present phase, if it is one (R80: "The meaning of a byte on RX is decided by the reader's phase"). -/
def decode (ph : Phase) (sub : Word) (t : Transfer) : Decoded :=
  match decodeTransfer t with
  | .ok (.rxByte b) => .ok ((decodeWire ph sub b).getD (.rxByte b))
  | d => d

/-! ### Encoding -/

/-- The transfer of an operation (R70 to R76, R90; unused fields are 0), and of a wire token the byte on RX. -/
def encode : Instr → Transfer
  | .cfgWr n v => .cmd (cmdWord 0x01#8 n v)
  | .cfgRd n => .cmd (cmdWord 0x02#8 n 0#32)
  | .accRd i => .cmd (cmdWord 0x03#8 0#8 i)
  | .startEnc => .cmd (cmdWord 0x10#8 0#8 0#32)
  | .startDec => .cmd (cmdWord 0x11#8 0#8 0#32)
  | .frameBegin k => .cmd (cmdWord 0x12#8 0#8 k)
  | .endEnc => .cmd (cmdWord 0x13#8 0#8 0#32)
  | .reset => .cmd (cmdWord 0x1F#8 0#8 0#32)
  | .keyByte b => .keyin b
  | .gridLd c => .gridin (rgbWord c)
  | .pixEnc c => .pixin (rgbWord c)
  | .rxByte b => .rx (rxWord b)
  | .rxEos => .rx 0x100#9
  | .sigErr k => .errin k
  | .wireMagic0 => .rx (rxWord 0x61#8)
  | .wireMagic1 => .rx (rxWord 0x6B#8)
  | .wireMagic2 => .rx (rxWord 0x2D#8)
  | .wireMagic3 => .rx (rxWord 0x63#8)
  | .wireWidth v => .rx (rxWord v)
  | .wireHeight v => .rx (rxWord v)
  | .wireFps v => .rx (rxWord v)
  | .wireContChunk => .rx (rxWord 0x00#8)
  | .wireContEnd => .rx (rxWord 0x01#8)
  | .wireTypeVideo => .rx (rxWord 0x00#8)
  | .wireKsize v => .rx (rxWord v)
  | .wireKey b => .rx (rxWord b)
  | .wireRleRun0 len => .rx (rxWord (rleByte false len))
  | .wireRleRun1 len => .rx (rxWord (rleByte true len))

/-- The phase and the range of `sub` in which a wire token is read (the column "phase" of the table; R173 to R179,
R137). None for an operation that is no wire token. -/
def tokenPlace : Instr → Option (Phase × Nat × Nat)
  | .cfgWr _ _ => none
  | .cfgRd _ => none
  | .accRd _ => none
  | .startEnc => none
  | .startDec => none
  | .frameBegin _ => none
  | .endEnc => none
  | .reset => none
  | .keyByte _ => none
  | .gridLd _ => none
  | .pixEnc _ => none
  | .rxByte _ => none
  | .rxEos => none
  | .sigErr _ => none
  | .wireMagic0 => some (.dHdr, 0, 0)
  | .wireMagic1 => some (.dHdr, 1, 1)
  | .wireMagic2 => some (.dHdr, 2, 2)
  | .wireMagic3 => some (.dHdr, 3, 3)
  | .wireWidth _ => some (.dHdr, 4, 7)
  | .wireHeight _ => some (.dHdr, 8, 11)
  | .wireFps _ => some (.dHdr, 12, 13)
  | .wireContChunk => some (.dCont, 0, 4294967295)
  | .wireContEnd => some (.dCont, 0, 4294967295)
  | .wireTypeVideo => some (.dType, 0, 4294967295)
  | .wireKsize _ => some (.dKsize, 0, 3)
  | .wireKey _ => some (.dKey, 0, 4294967295)
  | .wireRleRun0 _ => some (.dRle, 0, 4294967295)
  | .wireRleRun1 _ => some (.dRle, 0, 4294967295)

/-- Where the decoder can read an operation: a wire token at its place, a container byte where it is no token, any
other operation everywhere. -/
def readableAt (i : Instr) (ph : Phase) (sub : Word) : Bool :=
  match i with
  | .rxByte b => (decodeWire ph sub b).isNone
  | i =>
    match tokenPlace i with
    | none => true
    | some (q, lo, hi) => decide (ph = q) && decide (lo ≤ sub.toNat) && decide (sub.toNat ≤ hi)

/-! ### Pseudo-operations of the trace syntax (R91): each is the sequence it stands for -/

/-- KEY.BYTES b0, …, bn. -/
def pseudoKeyBytes (bs : List Byte) : List Instr := bs.map .keyByte

/-- RX.BYTES b0, …, bn. -/
def pseudoRxBytes (bs : List Byte) : List Instr := bs.map .rxByte

/-- GRID.FILL r, g, b, k. -/
def pseudoGridFill (c : Rgb) (k : Nat) : List Instr := List.replicate k (.gridLd c)

/-- PIX.FILL r, g, b, k. -/
def pseudoPixFill (c : Rgb) (k : Nat) : List Instr := List.replicate k (.pixEnc c)

/-- PIX.GRAY v. -/
def pseudoPixGray (v : Byte) : List Instr := [.pixEnc ⟨v, v, v⟩]

/-- CONFIG w, h, f, bs. -/
def pseudoConfig (w h f bs : Word) : List Instr := [.cfgWr 0#8 w, .cfgWr 1#8 h, .cfgWr 2#8 f, .cfgWr 3#8 bs]

/-! ### A word of the opcode table without its channel -/

/-- The wire row an 8-bit word stands for when nothing else is known: the rows with all bits fixed first, then the
run rows by bit 7. DESIGN CHOICE, log entry 8: the 8-bit rows of the table share their words. -/
def tableByte (b : Byte) : Instr :=
  if b = 0x61#8 then .wireMagic0
  else if b = 0x6B#8 then .wireMagic1
  else if b = 0x2D#8 then .wireMagic2
  else if b = 0x63#8 then .wireMagic3
  else if b = 0x00#8 then .wireContChunk
  else if b = 0x01#8 then .wireContEnd
  else if rleFlag b then .wireRleRun1 (rleLength b)
  else .wireRleRun0 (rleLength b)

/-- The transfer an `nbits`-bit word of the table is: 48 bits a command, 24 bits a GRIDIN payload, 9 bits (two bytes)
an RX payload, one byte a container byte on RX, 2 bits an ERRIN kind (log entry 8). -/
def tableTransfer (nbits w : Nat) : Option Transfer :=
  if 2 ^ nbits ≤ w then none
  else if nbits = 48 then some (.cmd (BitVec.ofNat 48 w))
  else if nbits = 24 then some (.gridin (BitVec.ofNat 24 w))
  else if nbits = 16 ∨ nbits = 9 then (if w < 512 then some (.rx (BitVec.ofNat 9 w)) else none)
  else if nbits = 8 then some (.rx (rxWord (BitVec.ofNat 8 w)))
  else if nbits = 2 then some (.errin (BitVec.ofNat 2 w))
  else none

/-- The place (phase, sub) at which the decoder reads an 8-bit word of the table: its token's. -/
def tablePlace (nbits w : Nat) : Option (Phase × Word) :=
  if nbits = 8 then
    match tokenPlace (tableByte (BitVec.ofNat 8 w)) with
    | some (ph, lo, _) => some (ph, BitVec.ofNat 32 lo)
    | none => none
  else none

/-- The instruction the decoder reads from a word of the table (log entry 8). -/
def decodeTableWord (nbits w : Nat) : Option Instr :=
  match tableTransfer nbits w with
  | none => none
  | some t =>
    let place := (tablePlace nbits w).getD (.pNone, 0#32)
    match decode place.1 place.2 t with
    | .ok i => some i
    | .rejected _ => none

end Sys2Proof
end

