-- ==== Sys2Proof/Machine/State.lean ====
section
/-! DEFINITION. The state of AKDV (spec/10_state.md R20), the reasons a step can stop, and the state after reset
(spec/10_state.md R35, spec/70_reset_and_hazards.md R260). -/

namespace Sys2Proof.Machine

/-- The modes (10_state.md R22). Codes 5, 6, 7 are never taken. -/
inductive Mode where
  | idle | enc | dec | done | fault
  deriving DecidableEq, Repr

/-- The error codes held in `err` (60_exceptions.md R221). Codes 12 to 255 are never produced. -/
inductive ErrCode where
  | noError | configError | frameSourceError | codecError | ioError | badMagic | truncatedStream
  | unsupportedChunk | rleOverrun | rleUnderrun | badContinuation | rleZeroLength
  deriving DecidableEq, Repr

/-- A record on KEYOUT (00_scope.md R10, 30_encoding.md R77). -/
inductive KeyRec where
  | begin (size : Word)
  | byte (b : Byte)
  deriving DecidableEq, Repr

/-- A record on LUMOUT, one per reconstructed pixel (00_scope.md R10, 41_delta.md R118). -/
structure LumRec where
  bit : Bool
  lumPre : BitVec 9
  lumPost : BitVec 9
  deriving DecidableEq, Repr

/-- A store indexed by cell (20_memory.md R50), as pairs of an index and a value. Its one form: indices strictly
rising, no value equal to what an unlisted cell reads as (Memory.wf). -/
abbrev Memory (α : Type) := List (Nat × α)

/-- What an unlisted accumulator cell reads as (log entry 2). -/
abbrev accZero : BitVec 4 := 0#4

/-- What an unlisted grid cell reads as (log entry 3). -/
abbrev gridZero : Rgb := ⟨0#8, 0#8, 0#8⟩

/-- The transfers the collaborators offer, one queue for each input channel (00_scope.md R10), the pending transfer
first: transfers on one channel are accepted in the order they are offered (20_memory.md R61). -/
structure Offers where
  cmd : List (BitVec 48)
  keyin : List Byte
  gridin : List (BitVec 24)
  pixin : List (BitVec 24)
  rx : List (BitVec 9)
  errin : List (BitVec 2)
  deriving DecidableEq, Repr

/-- The state: the rows of 10_state.md R20 in their order, then the model's own fields (MAXPIX, the histories of the
output channels, the offers of the collaborators and the schedule). -/
structure State where
  /-- CR0 WIDTH. -/
  W : Word
  /-- CR1 HEIGHT. -/
  H : Word
  /-- CR2 FPS. -/
  FPS : BitVec 16
  /-- CR3 BLOCKSIZE. -/
  B : Byte
  /-- CR4[2:0]. -/
  mode : Mode
  /-- CR4[7:4]. -/
  phase : Phase
  /-- CR5. -/
  err : ErrCode
  /-- CR6: the byte above the sub-cause (60_exceptions.md R222). -/
  errinfo : BitVec 16
  /-- CR7: frames completed in this session. -/
  frame : Word
  /-- CR8: the pixel cursor. -/
  p : Word
  /-- CR9: the key-image size of the current or last chunk. -/
  keysize : Word
  /-- The counter inside a phase (10_state.md R24). -/
  sub : Word
  /-- The value of the RLE run in progress. -/
  runFlag : Bool
  /-- The length of the RLE run in progress, 0 = none open. -/
  runLen : BitVec 7
  /-- The AccumulatorBank (10_state.md R29). -/
  acc : Memory (BitVec 4)
  /-- The grid buffer (10_state.md R32). -/
  grid : Memory Rgb
  /-- The model's: MAXPIX, an argument of the model (00_scope.md R6; log entry 1). -/
  maxPix : Word
  /-- The model's: what has been emitted on OUT, oldest first (00_scope.md R10). -/
  out : List Byte
  /-- The model's: what has been emitted on KEYOUT, oldest first. -/
  keyout : List KeyRec
  /-- The model's: what has been emitted on LUMOUT, oldest first. -/
  lumout : List LumRec
  /-- The model's: what has been emitted on RSP, oldest first. -/
  rsp : List Word
  /-- The model's: what the collaborators offer and the block has not accepted (log entry 4). -/
  offers : Offers
  /-- The model's: the schedule, the channels in the order in which the block turns to them. Which of several pending
  transfers is accepted next is free (20_memory.md R62): every order is some value of this field (log entry 4). -/
  schedule : List Channel
  deriving DecidableEq, Repr

/-- Why the model stops. No run of the block from reset meets one: the spec's own faults are the mode FAULT, a next
state (60_exceptions.md R231). -/
inductive Fault where
  /-- Raised by GRID.LD, PIX.ENC, RX.BYTE and the run tokens when they would use a cell of ACC or GRID that does not
  exist (20_memory.md R59: "There is no out-of-range access to fault on"). Only in states no run reaches. Safe. -/
  | noSuchCell
  /-- Raised by RX.BYTE in mode DEC in a phase of no decode session, for which the spec gives no rule. Only in states
  no run reaches. Safe. -/
  | noSuchPhase
  deriving DecidableEq, Repr

/-- Why there is no step. -/
inductive Refusal where
  /-- Answered by exec for an instruction without a meaning. Safe. -/
  | notModelled (mnemonic : String)
  /-- Answered by every meaning whose guard is false: the transfer does not happen and the state does not change
  (00_scope.md R9: "A model gives such an operation no step."). Safe. -/
  | notAccepted
  /-- Answered by step when no channel's pending transfer can be accepted: "A block whose inputs offer nothing acceptable
  simply makes no step" (60_exceptions.md R243). The offers wait (00_scope.md R9). Safe. -/
  | nothingAcceptable
  deriving DecidableEq, Repr

/-- The state after reset of a block with room for `maxPix` pixels: the values of 10_state.md R35; ACC and GRID, which
the spec leaves unspecified and unobservable, all 0 (log entries 2 and 3); nothing emitted, nothing offered. -/
def State.resetWith (maxPix : Word) : State where
  W := 0#32
  H := 0#32
  FPS := 0#16
  B := 8#8
  mode := .idle
  phase := .pNone
  err := .noError
  errinfo := 0#16
  frame := 0#32
  p := 0#32
  keysize := 0#32
  sub := 0#32
  runFlag := false
  runLen := 0#7
  acc := []
  grid := []
  maxPix := maxPix
  out := []
  keyout := []
  lumout := []
  rsp := []
  offers := { cmd := [], keyin := [], gridin := [], pixin := [], rx := [], errin := [] }
  schedule := []

/-- The machine right after reset (70_reset_and_hazards.md R260), with the suggested MAXPIX (log entry 1). -/
def State.reset : State := State.resetWith Config.defaultMaxPix

end Sys2Proof.Machine
end

