-- ==== Sys2Proof/Machine/Operands.lean ====
section
/-! DEFINITION. The values operations compute with: the parameters derived from the configuration, the
configuration check, luminances, the bump, little-endian bytes, the container's header, the packed forms of the
output records. Nothing here changes a state. -/

namespace Sys2Proof.Machine

/-! ### Stores -/

/-- The value of cell `i`; `z` is what an unlisted cell reads as. -/
def Memory.read {α : Type} (z : α) : Memory α → Nat → α
  | [], _ => z
  | (k, v) :: rest, i => if k = i then v else Memory.read z rest i

/-- Write cell `i`, keeping the form of Memory.wf: writing `z` removes the entry. -/
def Memory.write {α : Type} [DecidableEq α] (z : α) : Memory α → Nat → α → Memory α
  | [], i, v => if v = z then [] else [(i, v)]
  | (k, u) :: rest, i, v =>
    if i < k then (if v = z then (k, u) :: rest else (i, v) :: (k, u) :: rest)
    else if i = k then (if v = z then rest else (i, v) :: rest)
    else (k, u) :: Memory.write z rest i v

/-- Set every cell below `n` to `z` and leave the others. -/
def Memory.clearBelow {α : Type} (n : Nat) (m : Memory α) : Memory α := m.filter fun c => decide (n ≤ c.1)

/-- The one form of a store: indices strictly rising, no value equal to `z`. -/
def Memory.wf {α : Type} [DecidableEq α] (z : α) : Memory α → Bool
  | [] => true
  | (k, v) :: rest => decide (v ≠ z) && rest.all (fun c => decide (k < c.1)) && Memory.wf z rest

/-! ### Derived parameters -/

/-- N = W × H, exactly (00_scope.md R6). -/
def State.N (s : State) : Nat := s.W.toNat * s.H.toNat

/-- NC = (W div B) × (H div B) (00_scope.md R6). -/
def State.NC (s : State) : Nat := (s.W.toNat / s.B.toNat) * (s.H.toNat / s.B.toNat)

/-- `cfg_check()` (45_session_control.md R206): 0 = usable, else the sub-cause; the first test that holds decides. -/
def cfgCheck (s : State) : Byte :=
  if s.B = 0#8 then 1#8
  else if s.W = 0#32 ∨ s.H = 0#32 then 2#8
  else if s.W.toNat % s.B.toNat ≠ 0 then 3#8
  else if s.H.toNat % s.B.toNat ≠ 0 then 4#8
  else if s.maxPix.toNat < s.N then 5#8
  else 0#8

/-- `cell_of(i)`, the grid cell that covers pixel `i` (41_delta.md R111). -/
def cellOf (s : State) (i : Nat) : Nat :=
  let x := i % s.W.toNat
  let y := i / s.W.toNat
  (y / s.B.toNat) * (s.W.toNat / s.B.toNat) + x / s.B.toNat

/-- The `n` pixels from the cursor on, and the grid cells that cover them, exist (20_memory.md R59). -/
def cellsExist (s : State) (n : Nat) : Bool :=
  decide (s.p.toNat + n ≤ s.N) && (List.range n).all fun k => decide (cellOf s (s.p.toNat + k) < s.NC)

/-! ### Arithmetic of the pixel -/

/-- `lum3(r, g, b)`: the truncating mean (41_delta.md R110). -/
def lum3 (c : Rgb) : Byte := BitVec.ofNat 8 ((c.r.toNat + c.g.toNat + c.b.toNat) / 3)

/-- `blockLum + (acc << 4)`, exact in 9 bits (41_delta.md R114). -/
def biasedLum (blockLum : Byte) (a : BitVec 4) : BitVec 9 :=
  BitVec.ofNat 9 (blockLum.toNat + a.toNat * 16)

/-- `bump(a, inc)`: saturating at 15 and at 0 (40_accumulator.md R101, R102). -/
def bump (a : BitVec 4) (inc : Bool) : BitVec 4 :=
  BitVec.ofNat 4 (if inc then min (a.toNat + 1) 15 else a.toNat - 1)

/-- `acc_read(i)` (40_accumulator.md R100). -/
def accRead (s : State) (i : Nat) : BitVec 4 := s.acc.read accZero i

/-- `GRID[g]` (00_scope.md R12). -/
def gridRead (s : State) (g : Nat) : Rgb := s.grid.read gridZero g

/-- `blockLum` of pixel `i`: the luminance of the grid cell covering it (41_delta.md R114). -/
def blockLum (s : State) (i : Nat) : Byte := lum3 (gridRead s (cellOf s i))

/-- The delta bit of the pixel at the cursor: 1 exactly when `biasedLum < trueLum` (41_delta.md R115). -/
def deltaBit (s : State) (c : Rgb) : Bool :=
  decide ((biasedLum (blockLum s s.p.toNat) (accRead s s.p.toNat)).toNat < (lum3 c).toNat)

/-! ### Bytes and words -/

/-- Byte `i` of a value, `v[8i+7:8i]` (00_scope.md R11). -/
def byteOf {n : Nat} (v : BitVec n) (i : Nat) : Byte := v.extractLsb' (8 * i) 8

/-- `LE4(v)`, least significant byte first (00_scope.md R11, 20_memory.md R52). -/
def le4 (v : Word) : List Byte := [byteOf v 0, byteOf v 1, byteOf v 2, byteOf v 3]

/-- `LE2(v)` (00_scope.md R11, 20_memory.md R52). -/
def le2 (v : BitVec 16) : List Byte := [byteOf v 0, byteOf v 1]

/-- `v | (b << (8 × i))`, in the width of `v` (44_container_reader.md R173, R176). -/
def putByte {n : Nat} (v : BitVec n) (i : Nat) (b : Byte) : BitVec n := v ||| (b.setWidth n <<< (8 * i))

/-- The magic's byte `i`, 0 ≤ i ≤ 3: `a`, `k`, `-`, `c` (30_encoding.md R82). -/
def magicByte (i : Nat) : Byte :=
  match i with
  | 0 => 0x61#8
  | 1 => 0x6B#8
  | 2 => 0x2D#8
  | _ => 0x63#8

/-- The 14 bytes of the header (30_encoding.md R81, 43_container_writer.md R150). -/
def headerBytes (W H : Word) (FPS : BitVec 16) : List Byte :=
  [magicByte 0, magicByte 1, magicByte 2, magicByte 3] ++ le4 W ++ le4 H ++ le2 FPS

/-- The 6 bytes that open a video chunk: continuation 0, type 0, the key-image size (43_container_writer.md R153). -/
def chunkBytes (k : Word) : List Byte := [0x00#8, 0x00#8] ++ le4 k

/-- The end marker (30_encoding.md R83, 43_container_writer.md R156). -/
def endMarker : Byte := 0x01#8

/-- A LUMOUT record as its 19-bit word: bit at 18, lum_pre at 17:9, lum_post at 8:0 (30_encoding.md R77). -/
def LumRec.word (r : LumRec) : BitVec 19 := BitVec.ofBool r.bit ++ r.lumPre ++ r.lumPost

/-- A KEYOUT record in the 9-bit form: the begin mark above a byte; a Begin is four beats, least significant byte
first (30_encoding.md R77). The rule does not say on which of the four beats the mark is 1. DESIGN CHOICE: on all four (log
entry 16). -/
def KeyRec.beats : KeyRec → List (BitVec 9)
  | .begin size => (le4 size).map fun b => 1#1 ++ b
  | .byte b => [0#1 ++ b]

end Sys2Proof.Machine
end

