-- ==== Sys2Proof/Machine/Flags.lean ====
section
/-! DEFINITION. Codes, the one flag `fault`, STATUS and the control registers as a read shows them
(spec/10_state.md R22, R23, R25, R26; spec/60_exceptions.md R221). There are no condition codes. -/

namespace Sys2Proof.Machine

/-- The code of a mode (10_state.md R22). -/
def Mode.code : Mode → BitVec 3
  | .idle => 0#3
  | .enc => 1#3
  | .dec => 2#3
  | .done => 3#3
  | .fault => 4#3

/-- The code of a phase (10_state.md R23). -/
def phaseCode : Phase → BitVec 4
  | .pNone => 0#4
  | .eFrame => 1#4
  | .eKey => 2#4
  | .eGrid => 3#4
  | .ePix => 4#4
  | .dHdr => 5#4
  | .dCont => 6#4
  | .dType => 7#4
  | .dKsize => 8#4
  | .dKey => 9#4
  | .dGrid => 10#4
  | .dRle => 11#4

/-- The number of an error (60_exceptions.md R221). -/
def ErrCode.code : ErrCode → Byte
  | .noError => 0#8
  | .configError => 1#8
  | .frameSourceError => 2#8
  | .codecError => 3#8
  | .ioError => 4#8
  | .badMagic => 5#8
  | .truncatedStream => 6#8
  | .unsupportedChunk => 7#8
  | .rleOverrun => 8#8
  | .rleUnderrun => 9#8
  | .badContinuation => 10#8
  | .rleZeroLength => 11#8

/-- The flag `fault` and the FAULT line: 1 exactly when the mode is FAULT (10_state.md R26). -/
def State.faultLine (s : State) : Bool := decide (s.mode = .fault)

/-- STATUS = phase, fault, mode (10_state.md R26). -/
def State.status (s : State) : Byte := phaseCode s.phase ++ BitVec.ofBool s.faultLine ++ s.mode.code

/-- The control register `n` zero-extended to 32 bits (10_state.md R25). Numbers above 9 do not exist: no accepted
operation reads them. -/
def readCR (s : State) (n : Nat) : Word :=
  match n with
  | 0 => s.W
  | 1 => s.H
  | 2 => s.FPS.setWidth 32
  | 3 => s.B.setWidth 32
  | 4 => s.status.setWidth 32
  | 5 => s.err.code.setWidth 32
  | 6 => s.errinfo.setWidth 32
  | 7 => s.frame
  | 8 => s.p
  | 9 => s.keysize
  | _ => 0#32

end Sys2Proof.Machine
end

