-- ==== Sys2Proof/Machine/Guards.lean ====
section
/-! DEFINITION. When an operation is accepted (spec/00_scope.md R9, spec/45_session_control.md R207): one guard per
operation, and the function accepts that gathers them. -/

namespace Sys2Proof.Machine

/-- A session is running. -/
def inSession (s : State) : Bool := decide (s.mode = .enc) || decide (s.mode = .dec)

/-- ACC is initialised (45_session_control.md R203). -/
def accReady (s : State) : Bool :=
  match s.mode with
  | .idle => false
  | .enc => true
  | .dec => decide (s.phase ≠ .dHdr)
  | .done => true
  | .fault => decide (s.phase ≠ .pNone) && decide (s.phase ≠ .dHdr)

/-- R201: mode IDLE and a register 0 to 3. -/
def guardCfgWr (n : Byte) (s : State) : Bool := decide (s.mode = .idle) && decide (n.toNat ≤ 3)

/-- R202: a register 0 to 9, in every mode. -/
def guardCfgRd (n : Byte) (_s : State) : Bool := decide (n.toNat ≤ 9)

/-- R203: ACC is initialised and the index is below N. -/
def guardAccRd (i : Word) (s : State) : Bool := accReady s && decide (i.toNat < s.N)

/-- R150: mode IDLE. -/
def guardStartEnc (s : State) : Bool := decide (s.mode = .idle)

/-- R170: mode IDLE. -/
def guardStartDec (s : State) : Bool := decide (s.mode = .idle)

/-- R153: between the frames of an encode session. -/
def guardFrameBegin (s : State) : Bool := decide (s.mode = .enc) && decide (s.phase = .eFrame)

/-- R156: between the frames of an encode session. -/
def guardEndEnc (s : State) : Bool := decide (s.mode = .enc) && decide (s.phase = .eFrame)

/-- R204: always. -/
def guardReset (_s : State) : Bool := true

/-- R154: an encode session waiting for key bytes. -/
def guardKeyByte (s : State) : Bool := decide (s.mode = .enc) && decide (s.phase = .eKey)

/-- R113: a session waiting for grid cells. -/
def guardGridLd (s : State) : Bool :=
  (decide (s.mode = .enc) && decide (s.phase = .eGrid)) || (decide (s.mode = .dec) && decide (s.phase = .dGrid))

/-- R115: an encode session waiting for pixels. -/
def guardPixEnc (s : State) : Bool := decide (s.mode = .enc) && decide (s.phase = .ePix)

/-- R172: a decode session that is not waiting for grid cells. -/
def guardRxByte (s : State) : Bool := decide (s.mode = .dec) && decide (s.phase ≠ .dGrid)

/-- R180: mode DEC, DONE or FAULT. -/
def guardRxEos (s : State) : Bool :=
  decide (s.mode = .dec) || decide (s.mode = .done) || decide (s.mode = .fault)

/-- R205: a kind 0 to 2, in every mode. -/
def guardSigErr (k : BitVec 2) (_s : State) : Bool := decide (k.toNat ≤ 2)

/-- A wire token is a container byte on RX in a decode session, in its phase and at its place (30_encoding.md R80,
44_container_reader.md R172). -/
def guardWire (ph : Phase) (lo hi : Nat) (s : State) : Bool :=
  decide (s.mode = .dec) && decide (s.phase = ph) && decide (lo ≤ s.sub.toNat) && decide (s.sub.toNat ≤ hi)

/-- Whether the block accepts an operation in a state: the `ready` of its channel (00_scope.md R9,
70_reset_and_hazards.md R272). -/
def accepts (i : Instr) (s : State) : Bool :=
  match i with
  | .cfgWr n _ => guardCfgWr n s
  | .cfgRd n => guardCfgRd n s
  | .accRd k => guardAccRd k s
  | .startEnc => guardStartEnc s
  | .startDec => guardStartDec s
  | .frameBegin _ => guardFrameBegin s
  | .endEnc => guardEndEnc s
  | .reset => guardReset s
  | .keyByte _ => guardKeyByte s
  | .gridLd _ => guardGridLd s
  | .pixEnc _ => guardPixEnc s
  | .rxByte _ => guardRxByte s
  | .rxEos => guardRxEos s
  | .sigErr k => guardSigErr k s
  | .wireMagic0 => guardWire .dHdr 0 0 s
  | .wireMagic1 => guardWire .dHdr 1 1 s
  | .wireMagic2 => guardWire .dHdr 2 2 s
  | .wireMagic3 => guardWire .dHdr 3 3 s
  | .wireWidth _ => guardWire .dHdr 4 7 s
  | .wireHeight _ => guardWire .dHdr 8 11 s
  | .wireFps _ => guardWire .dHdr 12 13 s
  | .wireContChunk => guardWire .dCont 0 4294967295 s
  | .wireContEnd => guardWire .dCont 0 4294967295 s
  | .wireTypeVideo => guardWire .dType 0 4294967295 s
  | .wireKsize _ => guardWire .dKsize 0 3 s
  | .wireKey _ => guardWire .dKey 0 4294967295 s
  | .wireRleRun0 _ => guardWire .dRle 0 4294967295 s
  | .wireRleRun1 _ => guardWire .dRle 0 4294967295 s

/-! ### What is offered -/

/-- The pending transfer of a channel: the first one offered and not accepted. -/
def Offers.head (o : Offers) : Channel → Option Transfer
  | .cmd => o.cmd.head?.map .cmd
  | .keyin => o.keyin.head?.map .keyin
  | .gridin => o.gridin.head?.map .gridin
  | .pixin => o.pixin.head?.map .pixin
  | .rx => o.rx.head?.map .rx
  | .errin => o.errin.head?.map .errin

/-- The offers once the pending transfer of a channel has been accepted; the others wait. -/
def Offers.pop (o : Offers) : Channel → Offers
  | .cmd => { o with cmd := o.cmd.tail }
  | .keyin => { o with keyin := o.keyin.tail }
  | .gridin => { o with gridin := o.gridin.tail }
  | .pixin => { o with pixin := o.pixin.tail }
  | .rx => { o with rx := o.rx.tail }
  | .errin => { o with errin := o.errin.tail }

/-- The offers with a transfer put in front of its channel. -/
def Offers.push (o : Offers) : Transfer → Offers
  | .cmd w => { o with cmd := w :: o.cmd }
  | .keyin b => { o with keyin := b :: o.keyin }
  | .gridin w => { o with gridin := w :: o.gridin }
  | .pixin w => { o with pixin := w :: o.pixin }
  | .rx w => { o with rx := w :: o.rx }
  | .errin k => { o with errin := k :: o.errin }

/-- The operation a transfer is in a state, if the block is ready to accept it: no reserved encoding, and its guard
true (00_scope.md R9, 30_encoding.md R73, R76, 70_reset_and_hazards.md R272). -/
def acceptedAs (s : State) (t : Transfer) : Option Instr :=
  match decode s.phase s.sub t with
  | .rejected _ => none
  | .ok i => if accepts i s then some i else none

/-- The operation pending on a channel, if the block is ready to accept it. -/
def acceptable (s : State) (c : Channel) : Option Instr := (s.offers.head c).bind (acceptedAs s)

end Sys2Proof.Machine
end

