-- ==== Sys2Proof/Machine/Ops.lean ====
section
/-! DEFINITION. The shared operations over the state: offering and accepting a transfer, raising an error and
returning from it by reset, emitting, the accumulator and grid cells, the configuration registers. -/

namespace Sys2Proof.Machine

/-- The outcome of an operation or a step. -/
abbrev Result := Host.Outcome State Fault Refusal

/-! ### Acceptance and offers -/

/-- An operation whose guard is false is not accepted (00_scope.md R9). -/
def guarded (g : Bool) (r : Result) : Result := if g then r else .refused .notAccepted

/-- The `n` pixels from the cursor on must have their cells (log entry 10); in a session they do (20_memory.md R59). -/
def withCells (n : Nat) (s : State) (r : Result) : Result := if cellsExist s n then r else .fault .noSuchCell

/-- All input channels, in the order of the table of 00_scope.md R10. -/
def allChannels : List Channel := [.cmd, .keyin, .gridin, .pixin, .rx, .errin]

/-- The first of `cs` on which the block can accept what is pending: the channel, the operation, and the channels after
it. A channel on which it can accept nothing is passed over. -/
def pickFrom (s : State) : List Channel → Option (Channel × Instr × List Channel)
  | [] => none
  | c :: cs =>
    match acceptable s c with
    | some i => some (c, i, cs)
    | none => pickFrom s cs

/-- The state once the block has accepted what is pending on `c`, with what remains of the schedule. Only that transfer
is gone: what is not accepted waits (00_scope.md R9). -/
def takeOffer (c : Channel) (rest : List Channel) (s : State) : State :=
  { s with offers := s.offers.pop c, schedule := rest }

/-- The operation accepted next and the state with its transfer taken: by the schedule, and where the schedule names no
channel that can be served, the first channel that can (log entry 4). None exactly when nothing offered is acceptable. -/
def nextOperation (s : State) : Option (Instr × State) :=
  match pickFrom s s.schedule with
  | some (c, i, rest) => some (i, takeOffer c rest s)
  | none =>
    match pickFrom s allChannels with
    | some (c, i, _) => some (i, takeOffer c [] s)
    | none => none

/-- A transfer offered in front of its channel, with the schedule turning to that channel first. -/
def State.offer (s : State) (t : Transfer) : State :=
  { s with offers := s.offers.push t, schedule := t.channel :: s.schedule }

/-- `s` with the reader at the place of a wire token. -/
def placeToken (i : Instr) (s : State) : State :=
  match tokenPlace i with
  | some (ph, lo, _) => { s with mode := .dec, phase := ph, sub := BitVec.ofNat 32 lo }
  | none => s

/-- A state in which the block accepts `i`: `s` itself where it does, else `s` with the mode, the phase and the place
of `i`, and for GRID.LD, PIX.ENC and ACC.RD a configuration with the cells they use (log entry 9). -/
def placeFor (i : Instr) (s : State) : State :=
  if accepts i s then s
  else match i with
    | .cfgWr _ _ => { s with mode := .idle, phase := .pNone }
    | .cfgRd _ => s
    | .accRd _ => { s with mode := .done, phase := .pNone, W := 0xFFFFFFFF#32, H := 2#32 }
    | .startEnc => { s with mode := .idle, phase := .pNone }
    | .startDec => { s with mode := .idle, phase := .pNone }
    | .frameBegin _ => { s with mode := .enc, phase := .eFrame }
    | .endEnc => { s with mode := .enc, phase := .eFrame }
    | .reset => s
    | .keyByte _ => { s with mode := .enc, phase := .eKey, sub := 0#32, keysize := 1#32 }
    | .gridLd _ => { s with mode := .enc, phase := .eGrid, sub := 0#32, W := 8#32, H := 8#32, B := 8#8 }
    | .pixEnc _ => { s with mode := .enc, phase := .ePix, p := 0#32, W := 8#32, H := 8#32, B := 8#8 }
    | .rxByte b =>
      if b.toNat ≤ 1 then { s with mode := .dec, phase := .dHdr, sub := 0#32 } else { s with mode := .dec, phase := .dCont }
    | .rxEos => { s with mode := .dec, phase := .dCont }
    | .sigErr _ => s
    | .wireMagic0 | .wireMagic1 | .wireMagic2 | .wireMagic3 | .wireWidth _ | .wireHeight _ | .wireFps _
    | .wireContChunk | .wireContEnd | .wireTypeVideo | .wireKsize _ | .wireKey _ | .wireRleRun0 _
    | .wireRleRun1 _ => placeToken i s

/-- The state whose next step runs the instruction a word of the opcode table is: its transfer offered first, in a
state that accepts it (log entry 9). -/
def offerTableWord (s : State) (nbits w : Nat) : State :=
  match tableTransfer nbits w, decodeTableWord nbits w with
  | some t, some i => (placeFor i s).offer t
  | some t, none => s.offer t
  | none, _ => s

/-! ### Taking an error, and the only return from one -/

/-- `raise E(sub, byte)` (60_exceptions.md R231): the code, the auxiliary value and the mode are written and nothing
else; the operation ends there. -/
def raise (e : ErrCode) (sub byte : Byte) (s : State) : State :=
  { s with err := e, errinfo := byte ++ sub, mode := .fault }

/-- RESET (45_session_control.md R204, 60_exceptions.md R234): every element of the block's state at its reset value;
what was emitted stays, MAXPIX, the offers and the schedule are outside the block. -/
def resetState (s : State) : State :=
  { State.resetWith s.maxPix with
    out := s.out, keyout := s.keyout, lumout := s.lumout, rsp := s.rsp, offers := s.offers,
    schedule := s.schedule }

/-! ### Emitting (00_scope.md R12) -/

/-- `emit OUT, bs`, in list order. -/
def emitOut (bs : List Byte) (s : State) : State := { s with out := s.out ++ bs }

/-- `emit KEYOUT, r`. -/
def emitKey (r : KeyRec) (s : State) : State := { s with keyout := s.keyout ++ [r] }

/-- `emit LUMOUT, r`. -/
def emitLum (r : LumRec) (s : State) : State := { s with lumout := s.lumout ++ [r] }

/-- `emit RSP, v`. -/
def emitRsp (v : Word) (s : State) : State := { s with rsp := s.rsp ++ [v] }

/-! ### Cells and registers -/

/-- `acc_bump(i, inc)` (40_accumulator.md R103): the one read-modify-write. -/
def accBump (i : Nat) (inc : Bool) (s : State) : State :=
  { s with acc := s.acc.write accZero i (bump (accRead s i) inc) }

/-- `for i in 0 .. N−1: ACC[i] <- 0` (43_container_writer.md R150, 44_container_reader.md R173). -/
def zeroAcc (s : State) : State := { s with acc := s.acc.clearBelow s.N }

/-- `GRID[g] <- (r, g, b)` (00_scope.md R12). -/
def gridWrite (g : Nat) (c : Rgb) (s : State) : State := { s with grid := s.grid.write gridZero g c }

/-- `CR[n] <- v` for the registers software may write; a narrower register keeps the low bits (45_session_control.md
R201). -/
def writeCR (n : Nat) (v : Word) (s : State) : State :=
  match n with
  | 0 => { s with W := v }
  | 1 => { s with H := v }
  | 2 => { s with FPS := v.setWidth 16 }
  | 3 => { s with B := v.setWidth 8 }
  | _ => s

/-- Count a completed frame, modulo 2^32, and put the cursor at the first pixel (60_exceptions.md R245). -/
def countFrame (s : State) : State := { s with p := 0#32, frame := s.frame + 1#32 }

end Sys2Proof.Machine
end

