-- ==== Sys2Proof/Machine/Session.lean ====
section
/-! DEFINITION. Session control (spec/45_session_control.md): CFG.WR, CFG.RD, ACC.RD, RESET, SIG.ERR. -/

namespace Sys2Proof.Machine

/-- CFG.WR n, v (R201). -/
def execCfgWr (n : Byte) (v : Word) (s : State) : Result :=
  guarded (guardCfgWr n s) (.next (writeCR n.toNat v s))

/-- CFG.RD n (R202). -/
def execCfgRd (n : Byte) (s : State) : Result :=
  guarded (guardCfgRd n s) (.next (emitRsp (readCR s n.toNat) s))

/-- ACC.RD i (R203). -/
def execAccRd (i : Word) (s : State) : Result :=
  guarded (guardAccRd i s) (.next (emitRsp ((accRead s i.toNat).setWidth 32) s))

/-- RESET (R204). -/
def execReset (s : State) : Result :=
  guarded (guardReset s) (.next (resetState s))

/-- The error a collaborator's kind stands for (R205): FRAMESRC, CODEC, IO. -/
def signalledError (k : BitVec 2) : ErrCode :=
  if k = 0#2 then .frameSourceError else if k = 1#2 then .codecError else .ioError

/-- SIG.ERR k (R205): in a session the error is raised; else the signal is dropped. -/
def execSigErr (k : BitVec 2) (s : State) : Result :=
  guarded (guardSigErr k s) (.next (if inSession s then raise (signalledError k) 0#8 0#8 s else s))

end Sys2Proof.Machine
end

