-- ==== Sys2Proof/Machine/Rle.lean ====
section
/-! DEFINITION. The RLEPacker's pack side (spec/42_rle.md R130, R131, R133). The unpack side is the run byte in
Machine/Delta.lean. -/

namespace Sys2Proof.Machine

/-- `rle_emit()` (R130): the open run as one byte on OUT. -/
def rleEmit (s : State) : State :=
  { emitOut [rleByte s.runFlag s.runLen] s with runLen := 0#7 }

/-- Open a run of one bit. -/
def openRun (bit : Bool) (s : State) : State := { s with runFlag := bit, runLen := 1#7 }

/-- The first statement of `rle_push` (R131): start a run, extend it, or close it and start another. -/
def extendRun (bit : Bool) (s : State) : State :=
  if s.runLen = 0#7 then openRun bit s
  else if bit = s.runFlag then { s with runLen := s.runLen + 1#7 }
  else openRun bit (rleEmit s)

/-- `rle_push(bit)` (R131): a run that reaches 127 is written at once. -/
def rlePush (bit : Bool) (s : State) : State :=
  let t := extendRun bit s
  if t.runLen.toNat = Config.maxRun then rleEmit t else t

/-- `rle_flush()` (R133). -/
def rleFlush (s : State) : State := if s.runLen = 0#7 then s else rleEmit s

end Sys2Proof.Machine
end

