-- ==== Sys2Proof/Machine/Delta.lean ====
section
/-! DEFINITION. The DeltaEncoder and its decode-side twin (spec/41_delta.md): GRID.LD, PIX.ENC, `dec_pixel`, and the
RLE run byte that calls it (spec/42_rle.md R137). -/

namespace Sys2Proof.Machine

/-- A cell arrives (R113): stored at `sub`; after the last one the pixel phase of the session begins. -/
def loadCell (c : Rgb) (s : State) : State :=
  let t := { gridWrite s.sub.toNat c s with sub := s.sub + 1#32 }
  if t.sub.toNat = t.NC then
    { t with sub := 0#32, p := 0#32, phase := if t.mode = .enc then .ePix else .dRle }
  else t

/-- GRID.LD r, g, b (R113). -/
def execGridLd (c : Rgb) (s : State) : Result :=
  guarded (guardGridLd s) (if s.sub.toNat < s.NC then .next (loadCell c s) else .fault .noSuchCell)

/-- `p <- p + 1`. -/
def advanceP (s : State) : State := { s with p := s.p + 1#32 }

/-- After the last pixel of an encoded frame (R115): flush the run, count the frame, wait for the next. -/
def endFrameEnc (s : State) : State :=
  if s.p.toNat = s.N then { countFrame (rleFlush s) with phase := .eFrame } else s

/-- One raw pixel (R115): the bit is computed with the accumulator before its bump. -/
def encodePixel (c : Rgb) (s : State) : State :=
  let bit := deltaBit s c
  endFrameEnc (advanceP (rlePush bit (accBump s.p.toNat bit s)))

/-- PIX.ENC r, g, b (R115). -/
def execPixEnc (c : Rgb) (s : State) : Result :=
  guarded (guardPixEnc s) (withCells 1 s (.next (encodePixel c s)))

/-- The LUMOUT record of the pixel at the cursor for a decoded bit: the prediction before and after the bump (R118). -/
def lumRec (bit : Bool) (s : State) : LumRec :=
  let a := accRead s s.p.toNat
  { bit := bit
    lumPre := biasedLum (blockLum s s.p.toNat) a
    lumPost := biasedLum (blockLum s s.p.toNat) (bump a bit) }

/-- `dec_pixel(bit)` (R118). -/
def decPixel (bit : Bool) (s : State) : State :=
  advanceP (emitLum (lumRec bit s) (accBump s.p.toNat bit s))

/-- `repeat n times: dec_pixel(bit)` (42_rle.md R137). -/
def decPixels : Nat → Bool → State → State
  | 0, _, s => s
  | n + 1, bit, s => decPixels n bit (decPixel bit s)

/-- After the last pixel of a decoded frame (42_rle.md R137). -/
def endFrameDec (s : State) : State :=
  if s.p.toNat = s.N then { countFrame s with phase := .dCont } else s

/-- The RLE run byte (42_rle.md R137): both tests come before any pixel. -/
def rxRun (b : Byte) (s : State) : Result :=
  let len := (rleLength b).toNat
  if len = 0 then .next (raise .rleZeroLength 0#8 b s)
  else if s.N - s.p.toNat < len then .next (raise .rleOverrun 0#8 b s)
  else withCells len s (.next (endFrameDec (decPixels len (rleFlag b) s)))

end Sys2Proof.Machine
end

