-- ==== Sys2Proof/Machine/Reader.lean ====
section
/-! DEFINITION. The ContainerReader (spec/44_container_reader.md): START.DEC, RX.BYTE in each phase, RX.EOS. -/

namespace Sys2Proof.Machine

/-- START.DEC (R170): the header will fill W, H and FPS; B keeps its value. -/
def execStartDec (s : State) : Result :=
  guarded (guardStartDec s)
    (.next { s with
      W := 0#32, H := 0#32, FPS := 0#16, mode := .dec, phase := .dHdr, sub := 0#32, frame := 0#32, p := 0#32 })

/-- The header is complete (R173): the check on the W, H just read; ACC zeroed; the session waits for a chunk. -/
def endHeader (s : State) : State :=
  if cfgCheck s = 0#8 then { zeroAcc s with sub := 0#32, phase := .dCont }
  else raise .configError (cfgCheck s) 0#8 s

/-- `sub <- sub + 1; if sub = 14 then …` (R173). -/
def advanceHeader (s : State) : State :=
  let t := { s with sub := s.sub + 1#32 }
  if t.sub = 14#32 then endHeader t else t

/-- RX.BYTE in phase D_HDR (R173). -/
def rxHeader (b : Byte) (s : State) : State :=
  let i := s.sub.toNat
  if i < 4 then
    if b = magicByte i then advanceHeader s else raise .badMagic (s.sub.setWidth 8) b s
  else if i < 8 then advanceHeader { s with W := putByte s.W (i - 4) b }
  else if i < 12 then advanceHeader { s with H := putByte s.H (i - 8) b }
  else advanceHeader { s with FPS := putByte s.FPS (i - 12) b }

/-- RX.BYTE in phase D_CONT (R174). -/
def rxCont (b : Byte) (s : State) : State :=
  if b = 0x00#8 then { s with phase := .dType }
  else if b = 0x01#8 then { s with mode := .done, phase := .pNone }
  else raise .badContinuation 0#8 b s

/-- RX.BYTE in phase D_TYPE (R175). -/
def rxType (b : Byte) (s : State) : State :=
  if b = 0x00#8 then { s with phase := .dKsize, sub := 0#32, keysize := 0#32 }
  else raise .unsupportedChunk 0#8 b s

/-- RX.BYTE in phase D_KSIZE (R176). -/
def rxKsize (b : Byte) (s : State) : State :=
  let t := { s with keysize := putByte s.keysize s.sub.toNat b, sub := s.sub + 1#32 }
  if t.sub = 4#32 then
    { emitKey (.begin t.keysize) t with sub := 0#32, phase := if t.keysize = 0#32 then .dGrid else .dKey }
  else t

/-- RX.BYTE in phase D_KEY (R177). -/
def rxKey (b : Byte) (s : State) : State :=
  let t := { emitKey (.byte b) s with sub := s.sub + 1#32 }
  if t.sub = t.keysize then { t with sub := 0#32, phase := .dGrid } else t

/-- What a container byte does in each phase (R172). In D_GRID it is not accepted; in a phase of no decode session
there is no rule (log entry 11). -/
def rxByPhase (b : Byte) (s : State) : Result :=
  match s.phase with
  | .pNone => .fault .noSuchPhase
  | .eFrame => .fault .noSuchPhase
  | .eKey => .fault .noSuchPhase
  | .eGrid => .fault .noSuchPhase
  | .ePix => .fault .noSuchPhase
  | .dHdr => .next (rxHeader b s)
  | .dCont => .next (rxCont b s)
  | .dType => .next (rxType b s)
  | .dKsize => .next (rxKsize b s)
  | .dKey => .next (rxKey b s)
  | .dGrid => .fault .noSuchPhase
  | .dRle => rxRun b s

/-- RX.BYTE b (R172). -/
def execRxByte (b : Byte) (s : State) : Result := guarded (guardRxByte s) (rxByPhase b s)

/-- RX.EOS (R180): an error in a session, no effect after it. -/
def execRxEos (s : State) : Result :=
  guarded (guardRxEos s)
    (.next (if s.mode = .dec then
      raise (if s.phase = .dRle then .rleUnderrun else .truncatedStream) 0#8 0#8 s
    else s))

end Sys2Proof.Machine
end

