-- ==== Sys2Proof/Machine/Wire.lean ====
section
/-! DEFINITION. The wire tokens of the container (spec/30_encoding.md R80 to R89): each is RX.BYTE of its byte, taken
only in its own phase and at its own place. -/

namespace Sys2Proof.Machine

/-- WIRE.MAGIC0: header byte 0 (44_container_reader.md R173). -/
def execWireMagic0 (s : State) : Result := guarded (guardWire .dHdr 0 0 s) (.next (rxHeader 0x61#8 s))

/-- WIRE.MAGIC1: header byte 1 (R173). -/
def execWireMagic1 (s : State) : Result := guarded (guardWire .dHdr 1 1 s) (.next (rxHeader 0x6B#8 s))

/-- WIRE.MAGIC2: header byte 2 (R173). -/
def execWireMagic2 (s : State) : Result := guarded (guardWire .dHdr 2 2 s) (.next (rxHeader 0x2D#8 s))

/-- WIRE.MAGIC3: header byte 3 (R173). -/
def execWireMagic3 (s : State) : Result := guarded (guardWire .dHdr 3 3 s) (.next (rxHeader 0x63#8 s))

/-- WIRE.WIDTH: header bytes 4 to 7 (R173). -/
def execWireWidth (v : Byte) (s : State) : Result := guarded (guardWire .dHdr 4 7 s) (.next (rxHeader v s))

/-- WIRE.HEIGHT: header bytes 8 to 11 (R173). -/
def execWireHeight (v : Byte) (s : State) : Result := guarded (guardWire .dHdr 8 11 s) (.next (rxHeader v s))

/-- WIRE.FPS: header bytes 12 and 13; the last one completes the header (R173). -/
def execWireFps (v : Byte) (s : State) : Result := guarded (guardWire .dHdr 12 13 s) (.next (rxHeader v s))

/-- WIRE.CONT.CHUNK: a chunk follows (R174). -/
def execWireContChunk (s : State) : Result := guarded (guardWire .dCont 0 4294967295 s) (.next (rxCont 0x00#8 s))

/-- WIRE.CONT.END: the end marker (R174). -/
def execWireContEnd (s : State) : Result := guarded (guardWire .dCont 0 4294967295 s) (.next (rxCont 0x01#8 s))

/-- WIRE.TYPE.VIDEO (R175). -/
def execWireTypeVideo (s : State) : Result := guarded (guardWire .dType 0 4294967295 s) (.next (rxType 0x00#8 s))

/-- WIRE.KSIZE: a byte of the key-image size (R176). -/
def execWireKsize (v : Byte) (s : State) : Result := guarded (guardWire .dKsize 0 3 s) (.next (rxKsize v s))

/-- WIRE.KEY: a byte of the key image (R177). -/
def execWireKey (b : Byte) (s : State) : Result := guarded (guardWire .dKey 0 4294967295 s) (.next (rxKey b s))

/-- WIRE.RLE.RUN0: a run of zeros (42_rle.md R137). -/
def execWireRleRun0 (len : BitVec 7) (s : State) : Result :=
  guarded (guardWire .dRle 0 4294967295 s) (rxRun (rleByte false len) s)

/-- WIRE.RLE.RUN1: a run of ones (42_rle.md R137). -/
def execWireRleRun1 (len : BitVec 7) (s : State) : Result :=
  guarded (guardWire .dRle 0 4294967295 s) (rxRun (rleByte true len) s)

end Sys2Proof.Machine
end

