-- ==== Sys2Proof/Machine/Writer.lean ====
section
/-! DEFINITION. The ContainerWriter (spec/43_container_writer.md): START.ENC, FRAME.BEGIN, KEY.BYTE, END. -/

namespace Sys2Proof.Machine

/-- An encode session opens (R150): ACC zeroed, the header emitted, the session waits for a frame. -/
def openEnc (s : State) : State :=
  { emitOut (headerBytes s.W s.H s.FPS) (zeroAcc s) with
    mode := .enc, phase := .eFrame, frame := 0#32, p := 0#32, sub := 0#32 }

/-- START.ENC (R150): a configuration that fails the check raises ConfigError before anything else. -/
def execStartEnc (s : State) : Result :=
  guarded (guardStartEnc s)
    (.next (if cfgCheck s = 0#8 then openEnc s else raise .configError (cfgCheck s) 0#8 s))

/-- FRAME.BEGIN k (R153). -/
def execFrameBegin (k : Word) (s : State) : Result :=
  guarded (guardFrameBegin s)
    (.next { emitOut (chunkBytes k) s with
      keysize := k, sub := 0#32, phase := if k = 0#32 then .eGrid else .eKey })

/-- One key-image byte copied to OUT (R154). -/
def passKeyByte (b : Byte) (s : State) : State :=
  let t := { emitOut [b] s with sub := s.sub + 1#32 }
  if t.sub = t.keysize then { t with sub := 0#32, phase := .eGrid } else t

/-- KEY.BYTE b (R154). -/
def execKeyByte (b : Byte) (s : State) : Result :=
  guarded (guardKeyByte s) (.next (passKeyByte b s))

/-- END (R156). -/
def execEndEnc (s : State) : Result :=
  guarded (guardEndEnc s) (.next { emitOut [endMarker] s with mode := .done, phase := .pNone })

end Sys2Proof.Machine
end

