-- ==== Sys2Proof/Machine/Dispatch.lean ====
section
/-! DEFINITION. The dispatch: one arm per constructor of Instr, each one call of the instruction's meaning. -/

namespace Sys2Proof.Machine

/-- The meaning of an operation in a state. -/
def exec (i : Instr) (s : State) : Host.Outcome State Fault Refusal :=
  match i with
  | .cfgWr n v => Sys2Proof.Machine.execCfgWr n v s
  | .cfgRd n => Sys2Proof.Machine.execCfgRd n s
  | .accRd k => Sys2Proof.Machine.execAccRd k s
  | .startEnc => Sys2Proof.Machine.execStartEnc s
  | .startDec => Sys2Proof.Machine.execStartDec s
  | .frameBegin k => Sys2Proof.Machine.execFrameBegin k s
  | .endEnc => Sys2Proof.Machine.execEndEnc s
  | .reset => Sys2Proof.Machine.execReset s
  | .keyByte b => Sys2Proof.Machine.execKeyByte b s
  | .gridLd c => Sys2Proof.Machine.execGridLd c s
  | .pixEnc c => Sys2Proof.Machine.execPixEnc c s
  | .rxByte b => Sys2Proof.Machine.execRxByte b s
  | .rxEos => Sys2Proof.Machine.execRxEos s
  | .sigErr k => Sys2Proof.Machine.execSigErr k s
  | .wireMagic0 => Sys2Proof.Machine.execWireMagic0 s
  | .wireMagic1 => Sys2Proof.Machine.execWireMagic1 s
  | .wireMagic2 => Sys2Proof.Machine.execWireMagic2 s
  | .wireMagic3 => Sys2Proof.Machine.execWireMagic3 s
  | .wireWidth v => Sys2Proof.Machine.execWireWidth v s
  | .wireHeight v => Sys2Proof.Machine.execWireHeight v s
  | .wireFps v => Sys2Proof.Machine.execWireFps v s
  | .wireContChunk => Sys2Proof.Machine.execWireContChunk s
  | .wireContEnd => Sys2Proof.Machine.execWireContEnd s
  | .wireTypeVideo => Sys2Proof.Machine.execWireTypeVideo s
  | .wireKsize v => Sys2Proof.Machine.execWireKsize v s
  | .wireKey b => Sys2Proof.Machine.execWireKey b s
  | .wireRleRun0 len => Sys2Proof.Machine.execWireRleRun0 len s
  | .wireRleRun1 len => Sys2Proof.Machine.execWireRleRun1 len s

end Sys2Proof.Machine
end

