-- ==== Sys2Proof/Machine/Step.lean ====
section
/-! DEFINITION. One step: the block accepts a pending transfer and runs its operation (spec/00_scope.md R9). -/

namespace Sys2Proof.Machine

/-- One step: the block accepts one pending transfer whose operation's guard is true and runs it. With nothing
acceptable there is no step and the offers wait (00_scope.md R9, 45_session_control.md R207, 60_exceptions.md R243). -/
def step (s : State) : Host.Outcome State Fault Refusal :=
  match nextOperation s with
  | none => .refused .nothingAcceptable
  | some (i, s1) => exec i s1

/-- `s` with a word of the opcode table offered first (log entry 9). -/
def State.withFetchWord (s : State) (nbits w : Nat) : State := offerTableWord s nbits w

end Sys2Proof.Machine
end

