-- ==== Sys2Proof/Safety.lean ====
section
/-! DEFINITION. What counts as a safe run: the invariant of spec/10_state.md R36, runs of operations, and the
reference functions the claims compare the machine with (spec/42_rle.md R135, R139; spec/20_memory.md R64;
spec/44_container_reader.md R183). -/

namespace Sys2Proof.Machine

/-! ### The invariant -/

/-- The phases of an encode session (10_state.md R23). -/
def encPhase : Phase → Bool
  | .eFrame => true
  | .eKey => true
  | .eGrid => true
  | .ePix => true
  | _ => false

/-- The phases of a decode session (10_state.md R23). -/
def decPhase : Phase → Bool
  | .dHdr => true
  | .dCont => true
  | .dType => true
  | .dKsize => true
  | .dKey => true
  | .dGrid => true
  | .dRle => true
  | _ => false

/-- What holds between operations (10_state.md R36, with the pairing of modes and phases of R23, the places where
`sub` and `p` are 0 of R24, ERRINFO of 60_exceptions.md R221, and the form of the two stores). -/
structure Inv (s : State) : Prop where
  /-- The accumulator store has its one form. -/
  accForm : s.acc.wf accZero = true
  /-- The grid store has its one form. -/
  gridForm : s.grid.wf gridZero = true
  /-- R36 (b). -/
  runBound : s.runLen.toNat ≤ 126
  /-- R36 (b). -/
  runClosed : s.phase ≠ .ePix → s.mode ≠ .fault → s.runLen = 0#7
  /-- DEDUCED from R34 (log entry 15): the run in progress is of pixels of this frame. -/
  runCursor : s.mode = .enc → s.phase = .ePix → s.runLen.toNat ≤ s.p.toNat
  /-- R23: P_NONE in IDLE and DONE. -/
  idlePhase : s.mode = .idle ∨ s.mode = .done → s.phase = .pNone
  /-- R23. -/
  encPhases : s.mode = .enc → encPhase s.phase = true
  /-- R23. -/
  decPhases : s.mode = .dec → decPhase s.phase = true
  /-- R36 (c). -/
  cursorIn : inSession s = true → s.phase = .ePix ∨ s.phase = .dRle → s.p.toNat < s.N
  /-- R36 (c). -/
  cursorZero : s.mode ≠ .fault → s.phase ≠ .ePix → s.phase ≠ .dRle → s.p = 0#32
  /-- R36 (d). -/
  config : s.mode = .enc ∨ (s.mode = .dec ∧ s.phase ≠ .dHdr) → cfgCheck s = 0#8
  /-- R36 (e). -/
  errMode : s.err ≠ .noError ↔ s.mode = .fault
  /-- R221, code 0. -/
  errInfo : s.mode ≠ .fault → s.errinfo = 0#16
  /-- R36 (f). -/
  subKey : inSession s = true → s.phase = .eKey ∨ s.phase = .dKey → s.sub.toNat < s.keysize.toNat
  /-- R36 (f). -/
  subGrid : inSession s = true → s.phase = .eGrid ∨ s.phase = .dGrid → s.sub.toNat < s.NC
  /-- R36 (f). -/
  subHdr : s.mode = .dec → s.phase = .dHdr → s.sub.toNat < 14
  /-- R36 (f). -/
  subKsize : s.mode = .dec → s.phase = .dKsize → s.sub.toNat < 4
  /-- R24: 0 in every other phase. -/
  subZero : s.mode ≠ .fault →
    s.phase = .pNone ∨ s.phase = .eFrame ∨ s.phase = .ePix ∨ s.phase = .dCont ∨ s.phase = .dType ∨ s.phase = .dRle →
    s.sub = 0#32

/-! ### What the block can still see of the two stores -/

/-- Whether the current frame has loaded grid cell `g` (10_state.md R33): in the grid phases the cells below `sub`, in
the pixel phases all of them, in every other phase none. -/
def loaded (s : State) (g : Nat) : Bool :=
  match s.phase with
  | .pNone => false
  | .eFrame => false
  | .eKey => false
  | .eGrid => decide (g < s.sub.toNat)
  | .ePix => decide (g < s.NC)
  | .dHdr => false
  | .dCont => false
  | .dType => false
  | .dKsize => false
  | .dKey => false
  | .dGrid => decide (g < s.sub.toNat)
  | .dRle => decide (g < s.NC)

/-- The two states differ at most in what the spec leaves unspecified: the accumulators while ACC is not initialised
(10_state.md R30, 45_session_control.md R203), and the grid cells the current frame has not loaded (R33). -/
structure SameSeen (s t : State) : Prop where
  /-- Every element but ACC and GRID is the same. -/
  rest : t = { s with acc := t.acc, grid := t.grid }
  /-- The accumulators are the same once they are initialised. -/
  acc : accReady s = true → ∀ i < s.N, accRead t i = accRead s i
  /-- The loaded cells are the same. -/
  grid : ∀ g, loaded s g = true → gridRead t g = gridRead s g

/-! ### Runs of operations -/

/-- Run operations one after the other, stopping at the first that makes no next state. -/
def execAll : List Instr → State → Result
  | [], s => .next s
  | i :: is, s =>
    match exec i s with
    | .next t => execAll is t
    | .fault f => .fault f
    | .refused r => .refused r

/-- Feed a container byte by byte on RX, giving the next of `grids` whenever the reader waits in D_GRID
(44_container_reader.md R183). With no grid left there the byte is offered all the same, and not accepted. -/
def feed : List (List Rgb) → List Byte → State → Result
  | _, [], s => .next s
  | grids, b :: bs, s =>
    if s.mode = .dec ∧ s.phase = .dGrid then
      match execAll (grids.headD [] |>.map .gridLd) s with
      | .next t =>
        match exec (.rxByte b) t with
        | .next u => feed grids.tail bs u
        | .fault f => .fault f
        | .refused r => .refused r
      | .fault f => .fault f
      | .refused r => .refused r
    else
      match exec (.rxByte b) s with
      | .next u => feed grids bs u
      | .fault f => .fault f
      | .refused r => .refused r

/-! ### Reference functions -/

/-- The maximal runs of equal bits, in order (42_rle.md R135). -/
def maximalRuns : List Bool → List (Bool × Nat)
  | [] => []
  | b :: bs =>
    match maximalRuns bs with
    | [] => [(b, 1)]
    | (c, n) :: rest => if b = c then (c, n + 1) :: rest else (b, 1) :: (c, n) :: rest

/-- The bytes of one maximal run: pieces of 127, then the remainder if there is one (42_rle.md R135). -/
def runBytes (r : Bool × Nat) : List Byte :=
  List.replicate (r.2 / 127) (rleByte r.1 127#7) ++
    if r.2 % 127 = 0 then [] else [rleByte r.1 (BitVec.ofNat 7 (r.2 % 127))]

/-- `rle_pack(b)` (42_rle.md R135). -/
def rlePack (bits : List Bool) : List Byte := (maximalRuns bits).flatMap runBytes

/-- `rle_unpack(bytes)`: each byte is `length` copies of `flag` (42_rle.md R139). -/
def rleUnpack (bytes : List Byte) : List Bool :=
  bytes.flatMap fun b => List.replicate (rleLength b).toNat (rleFlag b)

/-- The bit plane of a frame from the accumulators at frame start: pixel `i` compares its own prediction with its own
luminance (20_memory.md R64, 41_delta.md R115). -/
def frameBits (s : State) (pixels : List Rgb) : List Bool :=
  pixels.zipIdx.map fun c =>
    decide ((biasedLum (blockLum s c.2) (accRead s c.2)).toNat < (lum3 c.1).toNat)

/-- The LUMOUT records of a run of `bits` whose first pixel is `i`, from the accumulators before it
(41_delta.md R118). -/
def lumRecords (s : State) (i : Nat) (bits : List Bool) : List LumRec :=
  bits.zipIdx.map fun c =>
    { bit := c.1
      lumPre := biasedLum (blockLum s (i + c.2)) (accRead s (i + c.2))
      lumPost := biasedLum (blockLum s (i + c.2)) (bump (accRead s (i + c.2)) c.1) }

/-- The bank `A` is the bank of `s` with the cells from `i` on bumped by `bits`, one each, and no other cell changed
(40_accumulator.md R103). -/
def BankAfter (s : State) (i : Nat) (bits : List Bool) (A : Memory (BitVec 4)) : Prop :=
  ∀ q, Memory.read accZero A q =
    if i ≤ q then (match bits[q - i]? with
      | some bit => bump (accRead s q) bit
      | none => accRead s q)
    else accRead s q

/-- `LE_n(v)` by arithmetic: byte `i` is `v div 256^i mod 256` (00_scope.md R11). -/
def littleEndian (n v : Nat) : List Byte := (List.range n).map fun i => BitVec.ofNat 8 (v / 256 ^ i % 256)

/-! ### The sessions of the round trip (43_container_writer.md R151, 44_container_reader.md R183) -/

/-- What the collaborators give for one frame: the key image, the reconstructed grid, the raw pixels. -/
structure FrameIn where
  key : List Byte
  grid : List Rgb
  pixels : List Rgb
  deriving DecidableEq, Repr

/-- The operations of one encoded frame (43_container_writer.md R151). -/
def frameOps (f : FrameIn) : List Instr :=
  [.frameBegin (BitVec.ofNat 32 f.key.length)] ++ f.key.map .keyByte ++ f.grid.map .gridLd ++ f.pixels.map .pixEnc

/-- The operations of an encode session (43_container_writer.md R151). -/
def encodeOps (fs : List FrameIn) : List Instr := [.startEnc] ++ fs.flatMap frameOps ++ [.endEnc]

/-- A frame has the shape the configuration asks for (70_reset_and_hazards.md R268, items 4 to 6). -/
def FrameFits (s : State) (f : FrameIn) : Prop :=
  f.key.length < 2 ^ 32 ∧ f.grid.length = s.NC ∧ f.pixels.length = s.N

/-- The KEYOUT records of a frame (44_container_reader.md R176, R177). -/
def keyRecords (f : FrameIn) : List KeyRec :=
  .begin (BitVec.ofNat 32 f.key.length) :: f.key.map .byte

end Sys2Proof.Machine
end

