-- ==== Sys2Proof/Certificates/Slice0/Obligations.lean ====
section
/-! DEFINITION. The statements for the provers. Each docstring names the rule of spec/ the statement formalises, or
says that it is the model's own choice and names the log entry. -/

open Sys2Proof Sys2Proof.Machine

/-! ### Reset and the shape of a step -/

/-- The reset values the spec gives (10_state.md R35, 70_reset_and_hazards.md R260), with STATUS 0x00, the FAULT line
low and no accumulator readable. -/
def Obligations.ResetStateHoldsTheSpecsValues : Prop :=
  State.reset.W = 0#32 ∧ State.reset.H = 0#32 ∧ State.reset.FPS = 0#16 ∧ State.reset.B = 8#8 ∧
  State.reset.mode = .idle ∧ State.reset.phase = .pNone ∧ State.reset.err = .noError ∧
  State.reset.errinfo = 0#16 ∧ State.reset.frame = 0#32 ∧ State.reset.p = 0#32 ∧ State.reset.keysize = 0#32 ∧
  State.reset.sub = 0#32 ∧ State.reset.runFlag = false ∧ State.reset.runLen = 0#7 ∧
  State.reset.status = 0x00#8 ∧ State.reset.faultLine = false ∧
  ∀ i, exec (.accRd i) State.reset = .refused .notAccepted

/-- The invariant of 10_state.md R36 holds right after reset. The spec marks R36 as derived from its other rules; the
clause runCursor of Inv is deduced from R34. -/
def Obligations.ResetMeetsTheInvariant : Prop := Inv State.reset

/-- A step accepts the pending transfer of one channel and is the meaning of the operation it decodes to, with only that
transfer taken; the channel is the first of the schedule that offers an acceptable operation, and where the schedule
names none, the first such channel of all. With nothing acceptable there is no step (00_scope.md R9, 60_exceptions.md
R243). That the order, which the spec leaves free (20_memory.md R62), is a list that every step takes up, and what
follows its end, is the model's choice, log entry 4. -/
def Obligations.StepRunsTheDecodedOperation : Prop :=
  (∀ (s : State) (c : Channel) (i : Instr), acceptable s c = some i ↔
    ∃ o, s.offers.head c = some o ∧ decode s.phase s.sub o = .ok i ∧ accepts i s = true) ∧
  (∀ (s : State) (pre rest : List Channel) (c : Channel) (i : Instr),
    s.schedule = pre ++ c :: rest → (∀ d ∈ pre, acceptable s d = none) → acceptable s c = some i →
      step s = exec i { s with offers := s.offers.pop c, schedule := rest }) ∧
  (∀ (s : State) (pre rest : List Channel) (c : Channel) (i : Instr),
    (∀ d ∈ s.schedule, acceptable s d = none) →
    [Channel.cmd, .keyin, .gridin, .pixin, .rx, .errin] = pre ++ c :: rest →
    (∀ d ∈ pre, acceptable s d = none) → acceptable s c = some i →
      step s = exec i { s with offers := s.offers.pop c, schedule := [] }) ∧
  ∀ s : State, (∀ c, acceptable s c = none) → step s = .refused .nothingAcceptable

/-- A reserved command word and kind 3 of SIG.ERR are never accepted: the channel is not served, and whatever step the
block makes, the offer is still pending after it (30_encoding.md R73, R76). -/
def Obligations.ReservedEncodingsAreNeverAccepted : Prop :=
  ∀ s : State,
    (∀ w : BitVec 48, s.offers.head .cmd = some (.cmd w) →
      (w.toNat / 2 ^ 40 ∉ [0x01, 0x02, 0x03, 0x10, 0x11, 0x12, 0x13, 0x1F] ∨
       (w.toNat / 2 ^ 40 = 0x01 ∧ 3 < w.toNat / 2 ^ 32 % 256) ∨
       (w.toNat / 2 ^ 40 = 0x02 ∧ 9 < w.toNat / 2 ^ 32 % 256)) →
      acceptable s .cmd = none ∧ ∀ t, step s = .next t → t.offers.cmd = s.offers.cmd) ∧
    (s.offers.head .errin = some (.errin 3#2) →
      acceptable s .errin = none ∧ ∀ t, step s = .next t → t.offers.errin = s.offers.errin)

/-! ### Encoding -/

/-- The words the spec writes out (30_encoding.md R90, 95_test_vectors.md P1, P2) decode to their operations. -/
def Obligations.TheSpecsWordsDecode : Prop :=
  decode .pNone 0#32 (.cmd 0x010000000010#48) = .ok (.cfgWr 0#8 16#32) ∧
  decode .pNone 0#32 (.cmd 0x010300000002#48) = .ok (.cfgWr 3#8 2#32) ∧
  decode .pNone 0#32 (.cmd 0x020900000000#48) = .ok (.cfgRd 9#8) ∧
  decode .eFrame 0#32 (.cmd 0x120000000002#48) = .ok (.frameBegin 2#32) ∧
  decode .eGrid 0#32 (.gridin 0xB4BEC8#24) = .ok (.gridLd ⟨200#8, 190#8, 180#8⟩) ∧
  decode .ePix 0#32 (.pixin 0x6E645A#24) = .ok (.pixEnc ⟨90#8, 100#8, 110#8⟩) ∧
  decode .dHdr 0#32 (.rx 0x061#9) = .ok .wireMagic0 ∧
  decode .dRle 0#32 (.rx 0x083#9) = .ok (.wireRleRun1 3#7) ∧
  decode .dCont 0#32 (.rx 0x002#9) = .ok (.rxByte 2#8) ∧
  decode .dCont 0#32 (.rx 0x100#9) = .ok .rxEos

/-- DECODE AND ENCODE AGREE: the decoder reads every well-formed operation back from its encoding, with every operand,
wherever that operation can be read (30_encoding.md R70 to R76, R80 to R88). -/
def Obligations.DecodeReadsBackEveryEncoding : Prop :=
  ∀ (i : Instr) (ph : Phase) (sub : Word),
    i.wellFormed = true → readableAt i ph sub = true → decode ph sub (encode i) = .ok i

/-- What the decoder reads is well formed, and it never reads a token out of its place (30_encoding.md R73, R76, R80;
R89 sums them up). -/
def Obligations.DecodedOperationsAreWellFormed : Prop :=
  ∀ (ph : Phase) (sub : Word) (o : Transfer) (i : Instr),
    decode ph sub o = .ok i → i.wellFormed = true ∧ readableAt i ph sub = true

/-- The fields a command does not use are ignored (30_encoding.md R72), and so are the data bits of RX.EOS (R74). -/
def Obligations.UnusedFieldsAreIgnored : Prop :=
  ∀ (ph : Phase) (sub : Word) (x : Byte) (v : Word),
    (x.toNat ≤ 9 → decode ph sub (.cmd (cmdWord 0x02#8 x v)) = .ok (.cfgRd x)) ∧
    decode ph sub (.cmd (cmdWord 0x03#8 x v)) = .ok (.accRd v) ∧
    decode ph sub (.cmd (cmdWord 0x10#8 x v)) = .ok .startEnc ∧
    decode ph sub (.cmd (cmdWord 0x11#8 x v)) = .ok .startDec ∧
    decode ph sub (.cmd (cmdWord 0x12#8 x v)) = .ok (.frameBegin v) ∧
    decode ph sub (.cmd (cmdWord 0x13#8 x v)) = .ok .endEnc ∧
    decode ph sub (.cmd (cmdWord 0x1F#8 x v)) = .ok .reset ∧
    decode ph sub (.rx (1#1 ++ x)) = .ok .rxEos

/-- The packed forms of the output records (30_encoding.md R77). That the begin mark is 1 on all four beats of a Begin is
the model's choice, log entry 16. -/
def Obligations.OutputRecordsPackAsTheSpecSays : Prop :=
  (∀ r : LumRec, r.word.toNat = (if r.bit then 1 else 0) * 2 ^ 18 + r.lumPre.toNat * 2 ^ 9 + r.lumPost.toNat) ∧
  (∀ b : Byte, (KeyRec.byte b).beats.map BitVec.toNat = [b.toNat]) ∧
  (∀ k : Word, (KeyRec.begin k).beats.map BitVec.toNat =
    [256 + k.toNat % 256, 256 + k.toNat / 2 ^ 8 % 256, 256 + k.toNat / 2 ^ 16 % 256, 256 + k.toNat / 2 ^ 24])

/-! ### Acceptance -/

/-- An operation is refused exactly when its guard is false, and for no other reason (00_scope.md R9). -/
def Obligations.RefusedExactlyWhenNotAccepted : Prop :=
  ∀ (i : Instr) (s : State),
    (exec i s = .refused .notAccepted ↔ accepts i s = false) ∧
    ∀ r, exec i s = .refused r → r = .notAccepted

/-- Which operation is acceptable when (45_session_control.md R207), for a state whose mode and phase belong
together (10_state.md R23). The spec marks R207 as derived from the guards of its other rules. -/
def Obligations.AcceptanceMatrix : Prop :=
  ∀ s : State, Inv s →
    (∀ n v, accepts (.cfgWr n v) s = true ↔ s.mode = .idle ∧ n.toNat ≤ 3) ∧
    (∀ n, accepts (.cfgRd n) s = true ↔ n.toNat ≤ 9) ∧
    (∀ k, accepts (.accRd k) s = true ↔ k.toNat < s.N ∧
      (s.mode = .enc ∨ s.mode = .done ∨ (s.mode = .dec ∧ s.phase ≠ .dHdr) ∨
        (s.mode = .fault ∧ s.phase ≠ .pNone ∧ s.phase ≠ .dHdr))) ∧
    (accepts .startEnc s = true ↔ s.mode = .idle) ∧
    (accepts .startDec s = true ↔ s.mode = .idle) ∧
    (∀ k, accepts (.frameBegin k) s = true ↔ s.mode = .enc ∧ s.phase = .eFrame) ∧
    (accepts .endEnc s = true ↔ s.mode = .enc ∧ s.phase = .eFrame) ∧
    accepts .reset s = true ∧
    (∀ b, accepts (.keyByte b) s = true ↔ s.mode = .enc ∧ s.phase = .eKey) ∧
    (∀ c, accepts (.gridLd c) s = true ↔ inSession s = true ∧ (s.phase = .eGrid ∨ s.phase = .dGrid)) ∧
    (∀ c, accepts (.pixEnc c) s = true ↔ s.mode = .enc ∧ s.phase = .ePix) ∧
    (∀ b, accepts (.rxByte b) s = true ↔ s.mode = .dec ∧ s.phase ≠ .dGrid) ∧
    (accepts .rxEos s = true ↔ s.mode = .dec ∨ s.mode = .done ∨ s.mode = .fault) ∧
    (∀ k, accepts (.sigErr k) s = true ↔ k ≠ 3#2)

/-! ### Configuration, status and control -/

/-- CFG.WR (45_session_control.md R201): in IDLE the register takes the value's low bits; else it is not accepted. -/
def Obligations.CfgWrWritesItsRegister : Prop :=
  ∀ (n : Byte) (v : Word) (s : State),
    (s.mode = .idle → n = 0#8 → exec (.cfgWr n v) s = .next { s with W := v }) ∧
    (s.mode = .idle → n = 1#8 → exec (.cfgWr n v) s = .next { s with H := v }) ∧
    (s.mode = .idle → n = 2#8 → exec (.cfgWr n v) s = .next { s with FPS := v.extractLsb' 0 16 }) ∧
    (s.mode = .idle → n = 3#8 → exec (.cfgWr n v) s = .next { s with B := v.extractLsb' 0 8 }) ∧
    (¬ (s.mode = .idle ∧ n.toNat ≤ 3) → exec (.cfgWr n v) s = .refused .notAccepted)

/-- CFG.RD (45_session_control.md R202, the registers of 10_state.md R25): in every mode, one word on RSP and nothing
else changes; ERR shows the error numbers of 60_exceptions.md R221. -/
def Obligations.CfgRdAnswersTheRegister : Prop :=
  ∀ (n : Byte) (s : State),
    (n.toNat ≤ 9 → exec (.cfgRd n) s = .next { s with
      rsp := s.rsp ++ [[s.W, s.H, s.FPS.setWidth 32, s.B.setWidth 32, s.status.setWidth 32, s.err.code.setWidth 32,
        s.errinfo.setWidth 32, s.frame, s.p, s.keysize].getD n.toNat 0#32] }) ∧
    (9 < n.toNat → exec (.cfgRd n) s = .refused .notAccepted) ∧
    (ErrCode.noError.code = 0#8 ∧ ErrCode.configError.code = 1#8 ∧ ErrCode.frameSourceError.code = 2#8 ∧
      ErrCode.codecError.code = 3#8 ∧ ErrCode.ioError.code = 4#8 ∧ ErrCode.badMagic.code = 5#8 ∧
      ErrCode.truncatedStream.code = 6#8 ∧ ErrCode.unsupportedChunk.code = 7#8 ∧ ErrCode.rleOverrun.code = 8#8 ∧
      ErrCode.rleUnderrun.code = 9#8 ∧ ErrCode.badContinuation.code = 10#8 ∧ ErrCode.rleZeroLength.code = 11#8)

/-- STATUS is phase, fault, mode with the codes of 10_state.md R22 and R23, its fault bit is the FAULT line
(10_state.md R26), the rule's examples, and the tables of the codes. -/
def Obligations.StatusShowsModeFaultAndPhase : Prop :=
  (∀ s : State, s.status.toNat =
      16 * (phaseCode s.phase).toNat + 8 * (if s.mode = .fault then 1 else 0) + s.mode.code.toNat ∧
    (s.faultLine = true ↔ s.mode = .fault) ∧ s.status.getLsbD 3 = s.faultLine) ∧
  (∀ s : State, (s.mode = .idle → s.phase = .pNone → s.status = 0x00#8) ∧
    (s.mode = .enc → s.phase = .eFrame → s.status = 0x11#8) ∧
    (s.mode = .enc → s.phase = .ePix → s.status = 0x41#8) ∧
    (s.mode = .dec → s.phase = .dRle → s.status = 0xB2#8) ∧
    (s.mode = .done → s.phase = .pNone → s.status = 0x03#8) ∧
    (s.mode = .fault → s.phase = .dType → s.status = 0x7C#8)) ∧
  (Mode.idle.code = 0#3 ∧ Mode.enc.code = 1#3 ∧ Mode.dec.code = 2#3 ∧ Mode.done.code = 3#3 ∧ Mode.fault.code = 4#3) ∧
  (phaseCode .pNone = 0#4 ∧ phaseCode .eFrame = 1#4 ∧ phaseCode .eKey = 2#4 ∧ phaseCode .eGrid = 3#4 ∧
    phaseCode .ePix = 4#4 ∧ phaseCode .dHdr = 5#4 ∧ phaseCode .dCont = 6#4 ∧ phaseCode .dType = 7#4 ∧
    phaseCode .dKsize = 8#4 ∧ phaseCode .dKey = 9#4 ∧ phaseCode .dGrid = 10#4 ∧ phaseCode .dRle = 11#4)

/-- ACC.RD (45_session_control.md R203): where ACC is initialised and the cell exists, its value on RSP, 0 to 15, and
nothing else changes; elsewhere it is not accepted. -/
def Obligations.AccRdAnswersTheAccumulator : Prop :=
  ∀ (i : Word) (s : State),
    (i.toNat < s.N ∧ (s.mode = .enc ∨ s.mode = .done ∨ (s.mode = .dec ∧ s.phase ≠ .dHdr) ∨
        (s.mode = .fault ∧ s.phase ≠ .pNone ∧ s.phase ≠ .dHdr)) →
      exec (.accRd i) s = .next { s with rsp := s.rsp ++ [BitVec.ofNat 32 (accRead s i.toNat).toNat] }) ∧
    (¬ (i.toNat < s.N ∧ (s.mode = .enc ∨ s.mode = .done ∨ (s.mode = .dec ∧ s.phase ≠ .dHdr) ∨
        (s.mode = .fault ∧ s.phase ≠ .pNone ∧ s.phase ≠ .dHdr))) →
      exec (.accRd i) s = .refused .notAccepted)

/-- RESET (45_session_control.md R204) completes from every state: the values of 10_state.md R35; nothing emitted is
withdrawn. It says nothing of ACC and GRID, which become unspecified; that MAXPIX, the offers and the schedule stay is
the model's choice, log entries 1 and 4. -/
def Obligations.ResetReturnsToTheResetState : Prop :=
  ∀ s : State, ∃ A G, exec .reset s = .next { s with
    W := 0#32, H := 0#32, FPS := 0#16, B := 8#8, mode := .idle, phase := .pNone, err := .noError, errinfo := 0#16,
    frame := 0#32, p := 0#32, keysize := 0#32, sub := 0#32, runFlag := false, runLen := 0#7, acc := A, grid := G }

/-- SIG.ERR (45_session_control.md R205): in a session the error 2 + k is raised and nothing else changes; elsewhere
it is accepted without effect; kind 3 is not accepted. -/
def Obligations.SigErrRaisesTheCollaboratorsError : Prop :=
  ∀ (k : BitVec 2) (s : State),
    (k ≠ 3#2 → s.mode = .enc ∨ s.mode = .dec → ∃ e : ErrCode, e.code.toNat = 2 + k.toNat ∧
      exec (.sigErr k) s = .next { s with err := e, errinfo := 0#16, mode := .fault }) ∧
    (k ≠ 3#2 → s.mode ≠ .enc → s.mode ≠ .dec → exec (.sigErr k) s = .next s) ∧
    (k = 3#2 → exec (.sigErr k) s = .refused .notAccepted)

/-- `cfg_check` (45_session_control.md R206): the tests in order, the product exact. -/
def Obligations.CfgCheckTakesTheFirstFailingTest : Prop :=
  ∀ s : State,
    (s.B = 0#8 → cfgCheck s = 1#8) ∧
    (s.B ≠ 0#8 → s.W = 0#32 ∨ s.H = 0#32 → cfgCheck s = 2#8) ∧
    (s.B ≠ 0#8 → s.W ≠ 0#32 → s.H ≠ 0#32 →
      (s.W.toNat % s.B.toNat ≠ 0 → cfgCheck s = 3#8) ∧
      (s.W.toNat % s.B.toNat = 0 → s.H.toNat % s.B.toNat ≠ 0 → cfgCheck s = 4#8) ∧
      (s.W.toNat % s.B.toNat = 0 → s.H.toNat % s.B.toNat = 0 →
        (s.maxPix.toNat < s.W.toNat * s.H.toNat → cfgCheck s = 5#8) ∧
        (s.W.toNat * s.H.toNat ≤ s.maxPix.toNat → cfgCheck s = 0#8)))

/-! ### The container writer -/

/-- START.ENC (43_container_writer.md R150): with a usable configuration ACC is zeroed and the 14 header bytes are
emitted; else ConfigError before anything is emitted; outside IDLE it is not accepted. -/
def Obligations.StartEncOpensTheSession : Prop :=
  ∀ s : State,
    (s.mode = .idle → cfgCheck s = 0#8 → ∃ A,
      exec .startEnc s = .next { s with
        acc := A
        out := s.out ++ [0x61#8, 0x6B#8, 0x2D#8, 0x63#8] ++ littleEndian 4 s.W.toNat ++ littleEndian 4 s.H.toNat ++
          littleEndian 2 s.FPS.toNat
        mode := .enc, phase := .eFrame, frame := 0#32, p := 0#32, sub := 0#32 } ∧
      (∀ i < s.N, Memory.read accZero A i = 0#4) ∧ ∀ i, s.N ≤ i → Memory.read accZero A i = accRead s i) ∧
    (s.mode = .idle → cfgCheck s ≠ 0#8 → exec .startEnc s =
      .next { s with err := .configError, errinfo := 0#8 ++ cfgCheck s, mode := .fault }) ∧
    (s.mode ≠ .idle → exec .startEnc s = .refused .notAccepted)

/-- FRAME.BEGIN (43_container_writer.md R153). -/
def Obligations.FrameBeginOpensTheChunk : Prop :=
  ∀ (k : Word) (s : State),
    (s.mode = .enc → s.phase = .eFrame → exec (.frameBegin k) s = .next { s with
      out := s.out ++ [0x00#8, 0x00#8] ++ littleEndian 4 k.toNat
      keysize := k, sub := 0#32, phase := if 0 < k.toNat then .eKey else .eGrid }) ∧
    (¬ (s.mode = .enc ∧ s.phase = .eFrame) → exec (.frameBegin k) s = .refused .notAccepted)

/-- KEY.BYTE (43_container_writer.md R154): the byte unchanged on OUT; after the last one the grid is awaited. -/
def Obligations.KeyByteIsCopiedToOut : Prop :=
  ∀ (b : Byte) (s : State),
    (s.mode = .enc → s.phase = .eKey → s.sub + 1#32 ≠ s.keysize →
      exec (.keyByte b) s = .next { s with out := s.out ++ [b], sub := s.sub + 1#32 }) ∧
    (s.mode = .enc → s.phase = .eKey → s.sub + 1#32 = s.keysize →
      exec (.keyByte b) s = .next { s with out := s.out ++ [b], sub := 0#32, phase := .eGrid }) ∧
    (¬ (s.mode = .enc ∧ s.phase = .eKey) → exec (.keyByte b) s = .refused .notAccepted)

/-- END (43_container_writer.md R156). -/
def Obligations.EndClosesTheContainer : Prop :=
  ∀ s : State,
    (s.mode = .enc → s.phase = .eFrame →
      exec .endEnc s = .next { s with out := s.out ++ [0x01#8], mode := .done, phase := .pNone }) ∧
    (¬ (s.mode = .enc ∧ s.phase = .eFrame) → exec .endEnc s = .refused .notAccepted)

/-! ### Grid, pixels, runs -/

/-- GRID.LD (41_delta.md R113) in a state of a session: the cell `sub` takes the triple and no other cell changes; after
the last cell the pixel phase begins. -/
def Obligations.GridLdLoadsTheNextCell : Prop :=
  ∀ (c : Rgb) (s : State), Inv s →
    (inSession s = true → s.phase = .eGrid ∨ s.phase = .dGrid → ∃ G,
      (∀ g, Memory.read gridZero G g = if g = s.sub.toNat then c else gridRead s g) ∧
      (s.sub.toNat + 1 ≠ s.NC → exec (.gridLd c) s = .next { s with grid := G, sub := s.sub + 1#32 }) ∧
      (s.sub.toNat + 1 = s.NC → exec (.gridLd c) s = .next { s with
        grid := G, sub := 0#32, p := 0#32, phase := if s.mode = .enc then .ePix else .dRle })) ∧
    (¬ (inSession s = true ∧ (s.phase = .eGrid ∨ s.phase = .dGrid)) →
      exec (.gridLd c) s = .refused .notAccepted)

/-- `lum3` is the truncating mean, whatever the order of its arguments (41_delta.md R110), and the biased luminance is
exact: no wrap and no clamp, at most 495 (R114). -/
def Obligations.LuminancesAreExact : Prop :=
  (∀ r g b : Byte,
    (lum3 ⟨r, g, b⟩).toNat = (r.toNat + g.toNat + b.toNat) / 3 ∧
    lum3 ⟨r, g, b⟩ = lum3 ⟨g, r, b⟩ ∧ lum3 ⟨r, g, b⟩ = lum3 ⟨r, b, g⟩) ∧
  ∀ (y : Byte) (a : BitVec 4), (biasedLum y a).toNat = y.toNat + 16 * a.toNat ∧ (biasedLum y a).toNat ≤ 495

/-- The cell that covers a pixel exists in every usable configuration (41_delta.md R111, 20_memory.md R59). -/
def Obligations.CoveringCellExists : Prop :=
  ∀ (s : State) (x y : Nat), cfgCheck s = 0#8 → x < s.W.toNat → y < s.H.toNat →
    y * s.W.toNat + x < s.N ∧ cellOf s (y * s.W.toNat + x) < s.NC ∧
    cellOf s (y * s.W.toNat + x) = y / s.B.toNat * (s.W.toNat / s.B.toNat) + x / s.B.toNat

/-- `bump` saturates: one step up or down within 0 to 15 (40_accumulator.md R101), and 15 or more bumps one way end at
the bound whatever the start (R102). -/
def Obligations.BumpSaturates : Prop :=
  (∀ a : BitVec 4, (bump a true).toNat = min (a.toNat + 1) 15 ∧ (bump a false).toNat = max ((a.toNat : Int) - 1) 0) ∧
  ∀ (a : BitVec 4) (k : Nat), 15 ≤ k →
    (fun x => bump x true)^[k] a = 15#4 ∧ (fun x => bump x false)^[k] a = 0#4

/-- PIX.ENC (41_delta.md R115) in a state of a session: the bit from the accumulator before its bump, the one cell
bumped, the bit pushed to the run; on the last pixel the run is flushed and the frame counted. -/
def Obligations.PixEncEncodesOnePixel : Prop :=
  ∀ (c : Rgb) (s : State), Inv s →
    (s.mode = .enc → s.phase = .ePix → ∃ (bit : Bool) (A : Memory (BitVec 4)),
      (bit = true ↔ ((gridRead s (cellOf s s.p.toNat)).r.toNat + (gridRead s (cellOf s s.p.toNat)).g.toNat +
          (gridRead s (cellOf s s.p.toNat)).b.toNat) / 3 + 16 * (accRead s s.p.toNat).toNat <
        (c.r.toNat + c.g.toNat + c.b.toNat) / 3) ∧
      (∀ q, Memory.read accZero A q = if q = s.p.toNat then bump (accRead s q) bit else accRead s q) ∧
      (s.p.toNat + 1 ≠ s.N →
        exec (.pixEnc c) s = .next { rlePush bit s with acc := A, p := s.p + 1#32 }) ∧
      (s.p.toNat + 1 = s.N →
        exec (.pixEnc c) s = .next { rleFlush (rlePush bit s) with
          acc := A, p := 0#32, frame := s.frame + 1#32, phase := .eFrame })) ∧
    (¬ (s.mode = .enc ∧ s.phase = .ePix) → exec (.pixEnc c) s = .refused .notAccepted)

/-- `rle_push` (42_rle.md R131): the run starts, goes on, is closed by a change of value or by its 127th bit; and
`rle_flush` (R133): the open run is written, if there is one. -/
def Obligations.RunsArePackedGreedily : Prop :=
  (∀ (bit : Bool) (s : State), s.runLen.toNat ≤ 126 →
    (s.runLen = 0#7 → rlePush bit s = { s with runFlag := bit, runLen := 1#7 }) ∧
    (s.runLen ≠ 0#7 → bit = s.runFlag → s.runLen.toNat < 126 → rlePush bit s = { s with runLen := s.runLen + 1#7 }) ∧
    (s.runLen ≠ 0#7 → bit = s.runFlag → s.runLen.toNat = 126 →
      rlePush bit s = { s with out := s.out ++ [BitVec.ofNat 8 ((if bit then 128 else 0) + 127)], runLen := 0#7 }) ∧
    (s.runLen ≠ 0#7 → bit ≠ s.runFlag →
      rlePush bit s = { s with
        out := s.out ++ [BitVec.ofNat 8 ((if s.runFlag then 128 else 0) + s.runLen.toNat)]
        runFlag := bit, runLen := 1#7 })) ∧
  ∀ s : State,
    (s.runLen = 0#7 → rleFlush s = s) ∧
    (s.runLen ≠ 0#7 → rleFlush s = { s with
      out := s.out ++ [BitVec.ofNat 8 ((if s.runFlag then 128 else 0) + s.runLen.toNat)], runLen := 0#7 })

/-! ### The container reader -/

/-- START.DEC (44_container_reader.md R170): W, H, FPS cleared, B kept, the header awaited. -/
def Obligations.StartDecAwaitsTheHeader : Prop :=
  ∀ s : State,
    (s.mode = .idle → exec .startDec s = .next { s with
      W := 0#32, H := 0#32, FPS := 0#16, mode := .dec, phase := .dHdr, sub := 0#32, frame := 0#32, p := 0#32 }) ∧
    (s.mode ≠ .idle → exec .startDec s = .refused .notAccepted)

/-- RX.BYTE in D_HDR (44_container_reader.md R173): the magic is checked byte by byte, W, H and FPS are filled least
significant byte first, and the 14th byte completes the header or raises ConfigError. -/
def Obligations.RxByteReadsTheHeader : Prop :=
  ∀ (b : Byte) (s : State), s.mode = .dec → s.phase = .dHdr →
    (s.sub.toNat < 4 → [0x61#8, 0x6B#8, 0x2D#8, 0x63#8][s.sub.toNat]? ≠ some b → exec (.rxByte b) s =
      .next { s with err := .badMagic, errinfo := b ++ BitVec.ofNat 8 s.sub.toNat, mode := .fault }) ∧
    (s.sub.toNat < 4 → [0x61#8, 0x6B#8, 0x2D#8, 0x63#8][s.sub.toNat]? = some b →
      exec (.rxByte b) s = .next { s with sub := s.sub + 1#32 }) ∧
    (4 ≤ s.sub.toNat → s.sub.toNat < 8 → exec (.rxByte b) s = .next { s with
      W := s.W ||| (b.setWidth 32 <<< (8 * (s.sub.toNat - 4))), sub := s.sub + 1#32 }) ∧
    (8 ≤ s.sub.toNat → s.sub.toNat < 12 → exec (.rxByte b) s = .next { s with
      H := s.H ||| (b.setWidth 32 <<< (8 * (s.sub.toNat - 8))), sub := s.sub + 1#32 }) ∧
    (s.sub.toNat = 12 → exec (.rxByte b) s = .next { s with FPS := s.FPS ||| b.setWidth 16, sub := 13#32 }) ∧
    (s.sub.toNat = 13 → cfgCheck s ≠ 0#8 → exec (.rxByte b) s = .next { s with
      FPS := s.FPS ||| (b.setWidth 16 <<< 8), sub := 14#32
      err := .configError, errinfo := 0#8 ++ cfgCheck s, mode := .fault }) ∧
    (s.sub.toNat = 13 → cfgCheck s = 0#8 → ∃ A, exec (.rxByte b) s = .next { s with
        FPS := s.FPS ||| (b.setWidth 16 <<< 8), acc := A, sub := 0#32, phase := .dCont } ∧
      (∀ i < s.N, Memory.read accZero A i = 0#4) ∧ ∀ i, s.N ≤ i → Memory.read accZero A i = accRead s i)

/-- RX.BYTE in D_CONT (44_container_reader.md R174) and in D_TYPE (R175). -/
def Obligations.RxByteReadsTheFraming : Prop :=
  ∀ (b : Byte) (s : State), s.mode = .dec →
    (s.phase = .dCont →
      (b = 0x00#8 → exec (.rxByte b) s = .next { s with phase := .dType }) ∧
      (b = 0x01#8 → exec (.rxByte b) s = .next { s with mode := .done, phase := .pNone }) ∧
      (2 ≤ b.toNat → exec (.rxByte b) s =
        .next { s with err := .badContinuation, errinfo := b ++ 0#8, mode := .fault })) ∧
    (s.phase = .dType →
      (b = 0x00#8 → exec (.rxByte b) s = .next { s with phase := .dKsize, sub := 0#32, keysize := 0#32 }) ∧
      (b ≠ 0x00#8 → exec (.rxByte b) s =
        .next { s with err := .unsupportedChunk, errinfo := b ++ 0#8, mode := .fault }))

/-- RX.BYTE in D_KSIZE (44_container_reader.md R176). -/
def Obligations.RxByteReadsTheKeySize : Prop :=
  ∀ (b : Byte) (s : State), s.mode = .dec → s.phase = .dKsize →
    (s.sub.toNat < 3 → exec (.rxByte b) s = .next { s with
      keysize := s.keysize ||| (b.setWidth 32 <<< (8 * s.sub.toNat)), sub := s.sub + 1#32 }) ∧
    (s.sub.toNat = 3 → exec (.rxByte b) s = .next { s with
      keysize := s.keysize ||| (b.setWidth 32 <<< 24)
      keyout := s.keyout ++ [.begin (s.keysize ||| (b.setWidth 32 <<< 24))]
      sub := 0#32
      phase := if 0 < (s.keysize ||| (b.setWidth 32 <<< 24)).toNat then .dKey else .dGrid })

/-- RX.BYTE in D_KEY (44_container_reader.md R177). -/
def Obligations.RxByteCopiesTheKeyImage : Prop :=
  ∀ (b : Byte) (s : State), s.mode = .dec → s.phase = .dKey →
    (s.sub + 1#32 ≠ s.keysize → exec (.rxByte b) s = .next { s with
      keyout := s.keyout ++ [.byte b], sub := s.sub + 1#32 }) ∧
    (s.sub + 1#32 = s.keysize → exec (.rxByte b) s = .next { s with
      keyout := s.keyout ++ [.byte b], sub := 0#32, phase := .dGrid })

/-- RX.BYTE in D_RLE, the run byte (42_rle.md R137), in a state of a session: both errors before any pixel; else
`length` pixels reconstructed with the same bit, each from its own cell, and the frame completed by its last pixel. -/
def Obligations.RxByteReconstructsTheRun : Prop :=
  ∀ (b : Byte) (s : State), Inv s → s.mode = .dec → s.phase = .dRle →
    (b.toNat % 128 = 0 → exec (.rxByte b) s =
      .next { s with err := .rleZeroLength, errinfo := b ++ 0#8, mode := .fault }) ∧
    (s.N - s.p.toNat < b.toNat % 128 → exec (.rxByte b) s =
      .next { s with err := .rleOverrun, errinfo := b ++ 0#8, mode := .fault }) ∧
    (b.toNat % 128 ≠ 0 → b.toNat % 128 ≤ s.N - s.p.toNat →
      ∃ A, BankAfter s s.p.toNat (List.replicate (b.toNat % 128) (decide (128 ≤ b.toNat))) A ∧
        (s.p.toNat + b.toNat % 128 ≠ s.N → exec (.rxByte b) s = .next { s with
          acc := A
          lumout := s.lumout ++ lumRecords s s.p.toNat (List.replicate (b.toNat % 128) (decide (128 ≤ b.toNat)))
          p := BitVec.ofNat 32 (s.p.toNat + b.toNat % 128) }) ∧
        (s.p.toNat + b.toNat % 128 = s.N → exec (.rxByte b) s = .next { s with
          acc := A
          lumout := s.lumout ++ lumRecords s s.p.toNat (List.replicate (b.toNat % 128) (decide (128 ≤ b.toNat)))
          p := 0#32, frame := s.frame + 1#32, phase := .dCont }))

/-- RX.EOS (44_container_reader.md R180). -/
def Obligations.RxEosEndsTheStream : Prop :=
  ∀ s : State,
    (s.mode = .dec → s.phase = .dRle →
      exec .rxEos s = .next { s with err := .rleUnderrun, errinfo := 0#16, mode := .fault }) ∧
    (s.mode = .dec → s.phase ≠ .dRle →
      exec .rxEos s = .next { s with err := .truncatedStream, errinfo := 0#16, mode := .fault }) ∧
    (s.mode = .done ∨ s.mode = .fault → exec .rxEos s = .next s) ∧
    (s.mode = .idle ∨ s.mode = .enc → exec .rxEos s = .refused .notAccepted)

/-! ### The wire tokens -/

/-- The four tokens of the magic (44_container_reader.md R173): each is taken at its own place of the header and only
there, and the header advances. That a token elsewhere is refused is the model's choice, log entry 7: there its byte is
another token or RX.BYTE, which the other statements say. -/
def Obligations.MagicTokensAdvanceTheHeader : Prop :=
  ∀ s : State,
    (s.mode = .dec → s.phase = .dHdr →
      (s.sub = 0#32 → exec .wireMagic0 s = .next { s with sub := 1#32 }) ∧
      (s.sub = 1#32 → exec .wireMagic1 s = .next { s with sub := 2#32 }) ∧
      (s.sub = 2#32 → exec .wireMagic2 s = .next { s with sub := 3#32 }) ∧
      (s.sub = 3#32 → exec .wireMagic3 s = .next { s with sub := 4#32 })) ∧
    (¬ (s.mode = .dec ∧ s.phase = .dHdr ∧ s.sub = 0#32) → exec .wireMagic0 s = .refused .notAccepted) ∧
    (¬ (s.mode = .dec ∧ s.phase = .dHdr ∧ s.sub = 1#32) → exec .wireMagic1 s = .refused .notAccepted) ∧
    (¬ (s.mode = .dec ∧ s.phase = .dHdr ∧ s.sub = 2#32) → exec .wireMagic2 s = .refused .notAccepted) ∧
    (¬ (s.mode = .dec ∧ s.phase = .dHdr ∧ s.sub = 3#32) → exec .wireMagic3 s = .refused .notAccepted)

/-- The tokens of width, height and fps (44_container_reader.md R173): each fills its field at its own place, and the
last fps byte of a usable header opens the chunk loop with a zeroed bank. -/
def Obligations.FieldTokensFillTheHeader : Prop :=
  ∀ (v : Byte) (s : State), s.mode = .dec → s.phase = .dHdr →
    (4 ≤ s.sub.toNat → s.sub.toNat ≤ 7 → exec (.wireWidth v) s = .next { s with
      W := s.W ||| (v.setWidth 32 <<< (8 * (s.sub.toNat - 4))), sub := s.sub + 1#32 }) ∧
    (8 ≤ s.sub.toNat → s.sub.toNat ≤ 11 → exec (.wireHeight v) s = .next { s with
      H := s.H ||| (v.setWidth 32 <<< (8 * (s.sub.toNat - 8))), sub := s.sub + 1#32 }) ∧
    (s.sub.toNat = 12 → exec (.wireFps v) s = .next { s with FPS := s.FPS ||| v.setWidth 16, sub := 13#32 }) ∧
    (s.sub.toNat = 13 → cfgCheck s = 0#8 → ∃ A, exec (.wireFps v) s = .next { s with
        FPS := s.FPS ||| (v.setWidth 16 <<< 8), acc := A, sub := 0#32, phase := .dCont } ∧
      (∀ i < s.N, Memory.read accZero A i = 0#4) ∧ ∀ i, s.N ≤ i → Memory.read accZero A i = accRead s i) ∧
    (s.sub.toNat = 13 → cfgCheck s ≠ 0#8 → exec (.wireFps v) s = .next { s with
      FPS := s.FPS ||| (v.setWidth 16 <<< 8), sub := 14#32
      err := .configError, errinfo := 0#8 ++ cfgCheck s, mode := .fault })

/-- The tokens that frame a chunk: continuation 0, the end marker, the video type, the key size, the key image
(44_container_reader.md R174 to R177). -/
def Obligations.ChunkTokensMoveTheReader : Prop :=
  ∀ (b : Byte) (s : State), s.mode = .dec →
    (s.phase = .dCont → exec .wireContChunk s = .next { s with phase := .dType }) ∧
    (s.phase = .dCont → exec .wireContEnd s = .next { s with mode := .done, phase := .pNone }) ∧
    (s.phase = .dType → exec .wireTypeVideo s = .next { s with phase := .dKsize, sub := 0#32, keysize := 0#32 }) ∧
    (s.phase = .dKsize → s.sub.toNat < 3 → exec (.wireKsize b) s = .next { s with
      keysize := s.keysize ||| (b.setWidth 32 <<< (8 * s.sub.toNat)), sub := s.sub + 1#32 }) ∧
    (s.phase = .dKsize → s.sub.toNat = 3 → exec (.wireKsize b) s = .next { s with
      keysize := s.keysize ||| (b.setWidth 32 <<< 24)
      keyout := s.keyout ++ [.begin (s.keysize ||| (b.setWidth 32 <<< 24))]
      sub := 0#32
      phase := if 0 < (s.keysize ||| (b.setWidth 32 <<< 24)).toNat then .dKey else .dGrid }) ∧
    (s.phase = .dKey → s.sub + 1#32 ≠ s.keysize → exec (.wireKey b) s = .next { s with
      keyout := s.keyout ++ [.byte b], sub := s.sub + 1#32 }) ∧
    (s.phase = .dKey → s.sub + 1#32 = s.keysize → exec (.wireKey b) s = .next { s with
      keyout := s.keyout ++ [.byte b], sub := 0#32, phase := .dGrid })

/-- The run tokens (42_rle.md R137) in a state of a session: length 0 and a length that does not fit in the frame raise
their errors before any pixel; else `len` pixels with the bit 0, or 1. -/
def Obligations.RunTokensReconstructTheirPixels : Prop :=
  ∀ (len : BitVec 7) (s : State), Inv s → s.mode = .dec → s.phase = .dRle →
    (len = 0#7 →
      exec (.wireRleRun0 len) s = .next { s with err := .rleZeroLength, errinfo := 0x0000#16, mode := .fault } ∧
      exec (.wireRleRun1 len) s = .next { s with err := .rleZeroLength, errinfo := 0x8000#16, mode := .fault }) ∧
    (s.N - s.p.toNat < len.toNat →
      exec (.wireRleRun0 len) s = .next { s with
        err := .rleOverrun, errinfo := BitVec.ofNat 16 (256 * len.toNat), mode := .fault } ∧
      exec (.wireRleRun1 len) s = .next { s with
        err := .rleOverrun, errinfo := BitVec.ofNat 16 (256 * (128 + len.toNat)), mode := .fault }) ∧
    (len ≠ 0#7 → len.toNat ≤ s.N - s.p.toNat →
      (∃ A, BankAfter s s.p.toNat (List.replicate len.toNat false) A ∧
        exec (.wireRleRun0 len) s = .next { s with
          acc := A
          lumout := s.lumout ++ lumRecords s s.p.toNat (List.replicate len.toNat false)
          p := if s.p.toNat + len.toNat = s.N then 0#32 else BitVec.ofNat 32 (s.p.toNat + len.toNat)
          frame := if s.p.toNat + len.toNat = s.N then s.frame + 1#32 else s.frame
          phase := if s.p.toNat + len.toNat = s.N then .dCont else .dRle }) ∧
      (∃ A, BankAfter s s.p.toNat (List.replicate len.toNat true) A ∧
        exec (.wireRleRun1 len) s = .next { s with
          acc := A
          lumout := s.lumout ++ lumRecords s s.p.toNat (List.replicate len.toNat true)
          p := if s.p.toNat + len.toNat = s.N then 0#32 else BitVec.ofNat 32 (s.p.toNat + len.toNat)
          frame := if s.p.toNat + len.toNat = s.N then s.frame + 1#32 else s.frame
          phase := if s.p.toNat + len.toNat = s.N then .dCont else .dRle }))

/-- A wire token is taken exactly in a decode session, in its own phase and at its own place of it (30_encoding.md R80,
44_container_reader.md R172). That the tokens are operations of their own is the model's, log entry 7. -/
def Obligations.WireTokensAreTakenOnlyInTheirPlace : Prop :=
  ∀ (i : Instr) (s : State) (q : Phase) (lo hi : Nat), tokenPlace i = some (q, lo, hi) →
    (exec i s = .refused .notAccepted ↔ ¬ (s.mode = .dec ∧ s.phase = q ∧ lo ≤ s.sub.toNat ∧ s.sub.toNat ≤ hi))

/-- RX.BYTE is the wire token its byte is in the present phase (30_encoding.md R80, 44_container_reader.md R172): the
same outcome from every state. -/
def Obligations.RxByteIsItsWireToken : Prop :=
  ∀ (b : Byte) (s : State) (i : Instr),
    decodeWire s.phase s.sub b = some i → exec (.rxByte b) s = exec i s

/-! ### Rules of the whole machine -/

/-- No operation changes the offers that wait, the schedule or MAXPIX, and what was emitted stays, in order (00_scope.md
R10, 43_container_writer.md R152). That MAXPIX, the offers and the schedule are fields of State is the model's, log entries 1, 4 and 6. -/
def Obligations.OutputsOnlyGrow : Prop :=
  ∀ (i : Instr) (s t : State), exec i s = .next t →
    s.out <+: t.out ∧ s.keyout <+: t.keyout ∧ s.lumout <+: t.lumout ∧ s.rsp <+: t.rsp ∧
    t.offers = s.offers ∧ t.schedule = s.schedule ∧ t.maxPix = s.maxPix

/-- After the end of a session no operation but RESET changes the state, RSP apart (60_exceptions.md R234,
70_reset_and_hazards.md R271). -/
def Obligations.EndedSessionIsChangedOnlyByReset : Prop :=
  ∀ (i : Instr) (s t : State), s.mode = .done ∨ s.mode = .fault → exec i s = .next t →
    i = .reset ∨ ∃ l, t = { s with rsp := s.rsp ++ l }

/-- Faults are precise (60_exceptions.md R231, R232): the operation that raises an error writes the code, ERRINFO and
the mode, and otherwise at most the last header byte's FPS and `sub` = 14. -/
def Obligations.FaultsArePrecise : Prop :=
  ∀ (i : Instr) (s t : State), exec i s = .next t → s.mode ≠ .fault → t.mode = .fault →
    t.err ≠ .noError ∧
    (t = { s with err := t.err, errinfo := t.errinfo, mode := .fault } ∨
     (s.mode = .dec ∧ s.phase = .dHdr ∧ s.sub = 13#32 ∧
      t = { s with FPS := t.FPS, sub := 14#32, err := .configError, errinfo := t.errinfo, mode := .fault }))

/-- The ways the mode changes (the table of 10_state.md R22). -/
def Obligations.ModesAreEnteredAndLeftAsListed : Prop :=
  ∀ (i : Instr) (s t : State), exec i s = .next t → s.mode ≠ t.mode →
    (i = .reset ∧ t.mode = .idle) ∨
    (s.mode = .idle ∧ i = .startEnc ∧ ((cfgCheck s = 0#8 ∧ t.mode = .enc) ∨ (cfgCheck s ≠ 0#8 ∧ t.mode = .fault))) ∨
    (s.mode = .idle ∧ i = .startDec ∧ t.mode = .dec) ∨
    (s.mode = .enc ∧ i = .endEnc ∧ t.mode = .done) ∨
    (s.mode = .dec ∧ s.phase = .dCont ∧ (i = .rxByte 0x01#8 ∨ i = .wireContEnd) ∧ t.mode = .done) ∨
    ((s.mode = .enc ∨ s.mode = .dec) ∧ t.mode = .fault)

/-- The ways the phase changes in a state of a session (the column "next" of 10_state.md R23). -/
def Obligations.PhasesFollowTheirOrder : Prop :=
  ∀ (i : Instr) (s t : State), Inv s → exec i s = .next t → i ≠ .reset → s.phase ≠ t.phase →
    (s.phase, t.phase) ∈
      [(Phase.pNone, Phase.eFrame), (.pNone, .dHdr), (.eFrame, .eKey), (.eFrame, .eGrid), (.eFrame, .pNone),
       (.eKey, .eGrid), (.eGrid, .ePix), (.ePix, .eFrame), (.dHdr, .dCont), (.dCont, .dType), (.dCont, .pNone),
       (.dType, .dKsize), (.dKsize, .dKey), (.dKsize, .dGrid), (.dKey, .dGrid), (.dGrid, .dRle), (.dRle, .dCont)]

/-- During a session only a pixel of PIX.ENC or a run byte writes an accumulator, once the session has initialised the
bank, which the last header byte of a decode session does (10_state.md R30). The wire tokens are operations of their own
by the model's choice, log entry 7. -/
def Obligations.AccumulatorsAreWrittenOnlyByPixels : Prop :=
  ∀ (i : Instr) (s t : State), inSession s = true → exec i s = .next t → t.acc ≠ s.acc →
    i = .reset ∨
    (s.mode = .enc ∧ s.phase = .ePix ∧ ∃ c, i = .pixEnc c) ∨
    (s.mode = .dec ∧ s.phase = .dRle ∧
      ((∃ b, i = .rxByte b) ∨ (∃ len, i = .wireRleRun0 len) ∨ ∃ len, i = .wireRleRun1 len)) ∨
    (s.mode = .dec ∧ s.phase = .dHdr ∧ s.sub = 13#32 ∧ ((∃ b, i = .rxByte b) ∨ ∃ v, i = .wireFps v))

/-- The configuration is fixed outside IDLE, except that the header of a decode session fills W, H and FPS
(10_state.md R27, R28, 45_session_control.md R201). -/
def Obligations.ConfigurationIsFixedDuringASession : Prop :=
  ∀ (i : Instr) (s t : State), s.mode ≠ .idle → i ≠ .reset → exec i s = .next t →
    t.B = s.B ∧ ((t.W = s.W ∧ t.H = s.H ∧ t.FPS = s.FPS) ∨ (s.mode = .dec ∧ s.phase = .dHdr))

/-- FRAME counts completed frames (60_exceptions.md R245): set to 0 by a session start, one more, modulo 2^32, with the
last pixel of a frame, and untouched by any other operation but RESET. -/
def Obligations.FrameCountsCompletedFrames : Prop :=
  ∀ (i : Instr) (s t : State), exec i s = .next t → i ≠ .reset →
    (t.mode ≠ .fault → i = .startEnc ∨ i = .startDec → t.frame = 0#32) ∧
    (i ≠ .startEnc → i ≠ .startDec →
      t.frame = if (s.phase = .ePix ∧ t.phase = .eFrame) ∨ (s.phase = .dRle ∧ t.phase = .dCont) then
        s.frame + 1#32 else s.frame)

/-- What ACC holds before it is initialised and what a grid cell holds before the frame has loaded it cannot be observed
(10_state.md R30, R33). In IDLE an operation does the same whatever they hold, and a session that starts reads 0 in every
accumulator. From two states that differ only in what is unspecified, every operation does the same: both are refused,
or both go on to states with the same outputs and registers that again differ only in what is unspecified. -/
def Obligations.UnspecifiedStoresAreUnobservable : Prop :=
  (∀ (i : Instr) (s t : State) (A : Memory (BitVec 4)) (G : Memory Rgb), s.mode = .idle → exec i s = .next t →
    ∃ A' G', exec i { s with acc := A, grid := G } = .next { t with acc := A', grid := G' } ∧
      (t.mode = .enc → (∀ k < s.N, Memory.read accZero t.acc k = 0#4) ∧ ∀ k < s.N, Memory.read accZero A' k = 0#4)) ∧
  ∀ (i : Instr) (s t : State), Inv s → Inv t → SameSeen s t →
    (∀ s', exec i s = .next s' → ∃ t', exec i t = .next t' ∧ SameSeen s' t') ∧
    (exec i s = .refused .notAccepted → exec i t = .refused .notAccepted)

/-- The accumulators a run byte leaves depend on the old ones and the byte alone, not on GRID or B (41_delta.md R119):
only LUMOUT may differ. The spec marks R119 as derived. -/
def Obligations.DecodedAccumulatorsDoNotDependOnTheGrid : Prop :=
  ∀ (b : Byte) (s t : State) (G : Memory Rgb) (bs : Byte),
    Inv s → Inv { s with grid := G, B := bs } → s.mode = .dec → s.phase = .dRle → exec (.rxByte b) s = .next t →
    ∃ L, exec (.rxByte b) { s with grid := G, B := bs } = .next { t with grid := G, B := bs, lumout := L } ∧
      L.map LumRec.bit = t.lumout.map LumRec.bit

/-- No-desync (40_accumulator.md R105): equal banks and the same bumps leave equal banks, whatever else the two
blocks hold. The spec marks R105 as derived. -/
def Obligations.EqualBumpsLeaveEqualBanks : Prop :=
  ∀ (l : List (Nat × Bool)) (s d : State), s.acc = d.acc →
    (l.foldl (fun t x => accBump x.1 x.2 t) s).acc = (l.foldl (fun t x => accBump x.1 x.2 t) d).acc

/-! ### Headline results -/

/-- AN INVARIANT THAT EVERY STEP KEEPS (10_state.md R36, which the spec marks as derived from its other rules; the clause
runCursor of Inv is deduced from R34). -/
def Obligations.EveryStepKeepsTheInvariant : Prop :=
  ∀ s t : State, Inv s → step s = .next t → Inv t

/-- From a state that meets the invariant there is a step, with a next state, exactly when some channel offers an
operation the block can accept; otherwise there is none, and no fault (60_exceptions.md R243; 20_memory.md R59: no access
is out of range; 41_delta.md R117: nothing in the pixel arithmetic fails; the spec marks the last two as derived). What
cannot be accepted waits: its whole queue is the same after the step (00_scope.md R9). -/
def Obligations.AnOfferNeverStopsTheBlock : Prop :=
  ∀ s : State, Inv s →
    ((∃ c i, acceptable s c = some i) → ∃ t, step s = .next t) ∧
    ((∀ c, acceptable s c = none) → step s = .refused .nothingAcceptable) ∧
    ∀ t, step s = .next t →
      (acceptable s .cmd = none → t.offers.cmd = s.offers.cmd) ∧
      (acceptable s .keyin = none → t.offers.keyin = s.offers.keyin) ∧
      (acceptable s .gridin = none → t.offers.gridin = s.offers.gridin) ∧
      (acceptable s .pixin = none → t.offers.pixin = s.offers.pixin) ∧
      (acceptable s .rx = none → t.offers.rx = s.offers.rx) ∧
      (acceptable s .errin = none → t.offers.errin = s.offers.errin)

/-- The packer's bytes for a bit plane are `rle_pack` of it (42_rle.md R135, which the spec marks as derived from R130,
R131 and R133). -/
def Obligations.PackerEmitsRlePack : Prop :=
  ∀ (bits : List Bool) (s : State), s.runLen = 0#7 →
    (rleFlush (bits.foldl (fun t b => rlePush b t) s)).out = s.out ++ rlePack bits

/-- The run-length code is lossless, with every length in 1 to 127 and the lengths adding up (42_rle.md R135, R139, which the
spec marks as derived). -/
def Obligations.RunLengthCodeIsLossless : Prop :=
  ∀ bits : List Bool,
    rleUnpack (rlePack bits) = bits ∧
    (∀ b ∈ rlePack bits, 1 ≤ (rleLength b).toNat ∧ (rleLength b).toNat ≤ 127) ∧
    ((rlePack bits).map fun b => (rleLength b).toNat).sum = bits.length

/-- A whole encoded frame is a function of GRID, the raw frame and ACC at frame start (20_memory.md R64): every bit is
computed from its own accumulator at frame start, OUT gets `rle_pack` of the bit plane (43_container_writer.md R155),
every accumulator is bumped once by its own bit, and the frame is counted. The spec marks R64 and R155 as derived. -/
def Obligations.EncodedFrameIsASnapshotFunction : Prop :=
  ∀ (s : State) (pixels : List Rgb), Inv s → s.mode = .enc → s.phase = .ePix → s.p = 0#32 →
    pixels.length = s.N →
    ∃ A f, BankAfter s 0 (frameBits s pixels) A ∧
      execAll (pixels.map .pixEnc) s = .next { s with
        acc := A, out := s.out ++ rlePack (frameBits s pixels), runFlag := f, runLen := 0#7
        frame := s.frame + 1#32, phase := .eFrame }

/-- The unpacker fed `rle_pack` of a bit plane from the first pixel applies exactly its bits, in order, raises no
fault, and completes the frame on the last byte (42_rle.md R139, which the spec marks as derived). -/
def Obligations.DecodedFrameAppliesTheBitPlane : Prop :=
  ∀ (s : State) (bits : List Bool), Inv s → s.mode = .dec → s.phase = .dRle → s.p = 0#32 → bits.length = s.N →
    ∃ A, BankAfter s 0 bits A ∧
      execAll ((rlePack bits).map .rxByte) s = .next { s with
        acc := A, lumout := s.lumout ++ lumRecords s 0 bits, frame := s.frame + 1#32, phase := .dCont }

/-- Round trip (44_container_reader.md R183, 43_container_writer.md R157): the bytes of a complete encode session are
the header, a chunk per frame with `rle_pack` of its bit plane, and the end marker; a decode session with the same block
size and room, fed those bytes with any grids, reaches DONE without a fault, with the header's fields, the frame count,
the key images on KEYOUT, the encoder's bits on LUMOUT, and the encoder's accumulators. The spec marks both rules as
derived. -/
def Obligations.SessionRoundTrip : Prop :=
  ∀ (e d : State) (fs : List FrameIn) (grids : List (List Rgb)),
    Inv e → Inv d → e.mode = .idle → d.mode = .idle → cfgCheck e = 0#8 → d.B = e.B → d.maxPix = e.maxPix →
    (∀ f ∈ fs, FrameFits e f) → grids.length = fs.length → (∀ g ∈ grids, g.length = e.NC) →
    ∃ (e' d0 d' : State) (planes : List (List Bool)),
      planes.length = fs.length ∧ (∀ b ∈ planes, b.length = e.N) ∧
      execAll (encodeOps fs) e = .next e' ∧ e'.mode = .done ∧ e'.frame = BitVec.ofNat 32 fs.length ∧
      e'.out = e.out ++ (headerBytes e.W e.H e.FPS ++
        (List.zipWith (fun f b => chunkBytes (BitVec.ofNat 32 f.key.length) ++ f.key ++ rlePack b) fs planes).flatten ++
        [endMarker]) ∧
      exec .startDec d = .next d0 ∧
      feed grids (headerBytes e.W e.H e.FPS ++
        (List.zipWith (fun f b => chunkBytes (BitVec.ofNat 32 f.key.length) ++ f.key ++ rlePack b) fs planes).flatten ++
        [endMarker]) d0 = .next d' ∧
      d'.mode = .done ∧ d'.W = e.W ∧ d'.H = e.H ∧ d'.FPS = e.FPS ∧ d'.frame = BitVec.ofNat 32 fs.length ∧
      d'.keyout = d.keyout ++ fs.flatMap keyRecords ∧
      d'.lumout.map LumRec.bit = d.lumout.map LumRec.bit ++ planes.flatten ∧
      ∀ q < e.N, accRead d' q = accRead e' q

/-! ### The model's own stops -/

/-- In states no run reaches: a cell that does not exist stops GRID.LD and PIX.ENC with a fault of its own, and so does
a container byte in mode DEC in a phase of no decode session. The model's choice, log entries 10 and 11: the spec says
only that no access is out of range (20_memory.md R59). -/
def Obligations.UnreachableAccessesFault : Prop :=
  (∀ (c : Rgb) (s : State), s.mode = .enc → s.phase = .eGrid → s.NC ≤ s.sub.toNat →
    exec (.gridLd c) s = .fault .noSuchCell) ∧
  (∀ (c : Rgb) (s : State), s.mode = .enc → s.phase = .ePix → s.N ≤ s.p.toNat →
    exec (.pixEnc c) s = .fault .noSuchCell) ∧
  (∀ (b : Byte) (s : State), s.mode = .dec → decPhase s.phase = false →
    exec (.rxByte b) s = .fault .noSuchPhase)
end

