-- ==== Sys2Proof/Laws/Memory.lean ====
section
/-! SUPPORT. The laws of the stores: read after write, the cells a write and a clear leave alone, and that every
operation keeps the one form. -/

namespace Sys2Proof.Machine

variable {α : Type}

@[simp] theorem Memory.read_nil (z : α) (i : Nat) : Memory.read z ([] : Memory α) i = z := rfl

/-- A cell below every listed index is unlisted. -/
theorem Memory.read_of_lt (z : α) {m : Memory α} {i : Nat} (h : ∀ c ∈ m, i < c.1) : Memory.read z m i = z := by
  induction m with
  | nil => rfl
  | cons c m ih =>
    obtain ⟨k, v⟩ := c
    have hk : i < k := h (k, v) (by simp)
    have : k ≠ i := by omega
    simp only [Memory.read, if_neg this]
    exact ih fun c hc => h c (by simp [hc])

theorem Memory.wf_cons [DecidableEq α] (z : α) {k : Nat} {v : α} {m : Memory α} :
    Memory.wf z ((k, v) :: m) = true ↔ v ≠ z ∧ (∀ c ∈ m, k < c.1) ∧ Memory.wf z m = true := by
  simp [Memory.wf, and_assoc]

/-- A read of the written cell gives the written value. -/
theorem Memory.read_write_same [DecidableEq α] (z : α) {m : Memory α} (h : m.wf z = true) (i : Nat) (v : α) :
    Memory.read z (m.write z i v) i = v := by
  induction m with
  | nil => by_cases hv : v = z <;> simp [Memory.write, Memory.read, hv]
  | cons c m ih =>
    obtain ⟨k, u⟩ := c
    obtain ⟨_, hlt, hm⟩ := (Memory.wf_cons z).1 h
    by_cases h1 : i < k
    · by_cases hv : v = z
      · have : ∀ c ∈ ((k, u) :: m : Memory α), i < c.1 := by
          intro c hc
          rcases List.mem_cons.1 hc with rfl | hc
          · exact h1
          · have := hlt c hc; omega
        simp only [Memory.write, if_pos h1, if_pos hv]
        rw [Memory.read_of_lt z this, hv]
      · simp [Memory.write, Memory.read, h1, hv]
    · by_cases h2 : i = k
      · subst h2
        by_cases hv : v = z
        · simp only [Memory.write, if_neg h1, if_pos hv, ↓reduceIte]
          rw [Memory.read_of_lt z hlt, hv]
        · simp [Memory.write, Memory.read, hv]
      · have h3 : k ≠ i := fun e => h2 e.symm
        simp only [Memory.write, if_neg h1, if_neg h2, Memory.read, if_neg h3]
        exact ih hm

/-- A write leaves every other cell alone. -/
theorem Memory.read_write_other [DecidableEq α] (z : α) (m : Memory α) {i j : Nat} (hij : j ≠ i) (v : α) :
    Memory.read z (m.write z i v) j = Memory.read z m j := by
  have hji : i ≠ j := fun e => hij e.symm
  induction m with
  | nil => by_cases hv : v = z <;> simp [Memory.write, Memory.read, hv, hji]
  | cons c m ih =>
    obtain ⟨k, u⟩ := c
    by_cases h1 : i < k
    · by_cases hv : v = z <;> simp [Memory.write, Memory.read, h1, hv, hji]
    · by_cases h2 : i = k
      · subst h2
        by_cases hv : v = z <;> simp [Memory.write, Memory.read, hv, hji]
      · simp only [Memory.write, if_neg h1, if_neg h2, Memory.read]
        by_cases h3 : k = j
        · simp [h3]
        · simp [h3, ih]

/-- The indices a write lists are the written one and those listed before. -/
theorem Memory.mem_write [DecidableEq α] (z : α) {m : Memory α} {i : Nat} {v : α} {c : Nat × α}
    (h : c ∈ m.write z i v) : c.1 = i ∨ c ∈ m := by
  induction m with
  | nil => by_cases hv : v = z <;> simp_all [Memory.write]
  | cons d m ih =>
    obtain ⟨k, u⟩ := d
    by_cases h1 : i < k
    · by_cases hv : v = z <;> simp only [Memory.write, h1, hv, ↓reduceIte] at h
      · exact .inr h
      · rcases List.mem_cons.1 h with rfl | h
        · exact .inl rfl
        · exact .inr h
    · by_cases h2 : i = k
      · by_cases hv : v = z <;> simp only [Memory.write, h2, hv, Nat.lt_irrefl, ↓reduceIte] at h
        · exact .inr (List.mem_cons_of_mem _ h)
        · rcases List.mem_cons.1 h with rfl | h
          · exact .inl h2.symm
          · exact .inr (List.mem_cons_of_mem _ h)
      · simp only [Memory.write, h1, h2, ↓reduceIte] at h
        rcases List.mem_cons.1 h with rfl | h
        · exact .inr (by simp)
        · rcases ih h with h | h
          · exact .inl h
          · exact .inr (List.mem_cons_of_mem _ h)

/-- A write keeps the form. -/
theorem Memory.write_wf [DecidableEq α] (z : α) {m : Memory α} (h : m.wf z = true) (i : Nat) (v : α) :
    (m.write z i v).wf z = true := by
  induction m with
  | nil => by_cases hv : v = z <;> simp [Memory.write, Memory.wf, hv]
  | cons c m ih =>
    obtain ⟨k, u⟩ := c
    obtain ⟨hu, hlt, hm⟩ := (Memory.wf_cons z).1 h
    by_cases h1 : i < k
    · by_cases hv : v = z <;> simp only [Memory.write, h1, hv, ↓reduceIte]
      · exact h
      · refine (Memory.wf_cons z).2 ⟨hv, ?_, h⟩
        intro c hc
        rcases List.mem_cons.1 hc with rfl | hc
        · exact h1
        · have := hlt c hc; omega
    · by_cases h2 : i = k
      · subst h2
        by_cases hv : v = z <;> simp only [Memory.write, Nat.lt_irrefl, hv, ↓reduceIte]
        · exact hm
        · exact (Memory.wf_cons z).2 ⟨hv, hlt, hm⟩
      · simp only [Memory.write, h1, h2, ↓reduceIte]
        refine (Memory.wf_cons z).2 ⟨hu, ?_, ih hm⟩
        intro c hc
        rcases Memory.mem_write z hc with h | h
        · omega
        · exact hlt c h

/-- Clearing sets every cell below the bound to `z`. -/
theorem Memory.read_clearBelow_lt (z : α) (m : Memory α) {n i : Nat} (h : i < n) :
    Memory.read z (m.clearBelow n) i = z := by
  apply Memory.read_of_lt
  intro c hc
  simp only [Memory.clearBelow, List.mem_filter, decide_eq_true_eq] at hc
  omega

/-- Clearing leaves every cell from the bound on. -/
theorem Memory.read_clearBelow_ge (z : α) (m : Memory α) {n i : Nat} (h : n ≤ i) :
    Memory.read z (m.clearBelow n) i = Memory.read z m i := by
  induction m with
  | nil => rfl
  | cons c m ih =>
    obtain ⟨k, v⟩ := c
    by_cases hk : n ≤ k
    · simp only [Memory.clearBelow, List.filter_cons, hk, decide_true, ↓reduceIte, Memory.read] at ih ⊢
      rw [ih]
    · have : k ≠ i := by omega
      simp only [Memory.clearBelow, List.filter_cons, hk, decide_false, Bool.false_eq_true, ↓reduceIte,
        Memory.read, if_neg this] at ih ⊢
      exact ih

/-- Clearing keeps the form. -/
theorem Memory.clearBelow_wf [DecidableEq α] (z : α) {m : Memory α} (h : m.wf z = true) (n : Nat) :
    (m.clearBelow n).wf z = true := by
  induction m with
  | nil => rfl
  | cons c m ih =>
    obtain ⟨k, v⟩ := c
    obtain ⟨hv, hlt, hm⟩ := (Memory.wf_cons z).1 h
    by_cases hk : n ≤ k
    · simp only [Memory.clearBelow, List.filter_cons, hk, decide_true, ↓reduceIte] at ih ⊢
      exact (Memory.wf_cons z).2 ⟨hv, fun c hc => hlt c (List.mem_filter.1 hc).1, ih hm⟩
    · simp only [Memory.clearBelow, List.filter_cons, hk, decide_false, Bool.false_eq_true, ↓reduceIte] at ih ⊢
      exact ih hm

/-- Both stores have their form after reset. -/
theorem reset_stores_wf : State.reset.acc.wf accZero = true ∧ State.reset.grid.wf gridZero = true := by decide

end Sys2Proof.Machine
end

