-- ==== Sys2Proof/Laws/State.lean ====
section
/-! SUPPORT. One lemma per field per update of the state, each true by rfl, so that no later proof unfolds a record
update. -/

namespace Sys2Proof.Machine

/-! ### raise -/

@[simp] theorem raise_W (e : ErrCode) (x y : Byte) (s : State) : (raise e x y s).W = s.W := rfl
@[simp] theorem raise_H (e : ErrCode) (x y : Byte) (s : State) : (raise e x y s).H = s.H := rfl
@[simp] theorem raise_FPS (e : ErrCode) (x y : Byte) (s : State) : (raise e x y s).FPS = s.FPS := rfl
@[simp] theorem raise_B (e : ErrCode) (x y : Byte) (s : State) : (raise e x y s).B = s.B := rfl
@[simp] theorem raise_mode (e : ErrCode) (x y : Byte) (s : State) : (raise e x y s).mode = .fault := rfl
@[simp] theorem raise_phase (e : ErrCode) (x y : Byte) (s : State) : (raise e x y s).phase = s.phase := rfl
@[simp] theorem raise_err (e : ErrCode) (x y : Byte) (s : State) : (raise e x y s).err = e := rfl
@[simp] theorem raise_errinfo (e : ErrCode) (x y : Byte) (s : State) : (raise e x y s).errinfo = y ++ x := rfl
@[simp] theorem raise_frame (e : ErrCode) (x y : Byte) (s : State) : (raise e x y s).frame = s.frame := rfl
@[simp] theorem raise_p (e : ErrCode) (x y : Byte) (s : State) : (raise e x y s).p = s.p := rfl
@[simp] theorem raise_keysize (e : ErrCode) (x y : Byte) (s : State) : (raise e x y s).keysize = s.keysize := rfl
@[simp] theorem raise_sub (e : ErrCode) (x y : Byte) (s : State) : (raise e x y s).sub = s.sub := rfl
@[simp] theorem raise_runFlag (e : ErrCode) (x y : Byte) (s : State) : (raise e x y s).runFlag = s.runFlag := rfl
@[simp] theorem raise_runLen (e : ErrCode) (x y : Byte) (s : State) : (raise e x y s).runLen = s.runLen := rfl
@[simp] theorem raise_acc (e : ErrCode) (x y : Byte) (s : State) : (raise e x y s).acc = s.acc := rfl
@[simp] theorem raise_grid (e : ErrCode) (x y : Byte) (s : State) : (raise e x y s).grid = s.grid := rfl
@[simp] theorem raise_maxPix (e : ErrCode) (x y : Byte) (s : State) : (raise e x y s).maxPix = s.maxPix := rfl
@[simp] theorem raise_out (e : ErrCode) (x y : Byte) (s : State) : (raise e x y s).out = s.out := rfl
@[simp] theorem raise_keyout (e : ErrCode) (x y : Byte) (s : State) : (raise e x y s).keyout = s.keyout := rfl
@[simp] theorem raise_lumout (e : ErrCode) (x y : Byte) (s : State) : (raise e x y s).lumout = s.lumout := rfl
@[simp] theorem raise_rsp (e : ErrCode) (x y : Byte) (s : State) : (raise e x y s).rsp = s.rsp := rfl
@[simp] theorem raise_offers (e : ErrCode) (x y : Byte) (s : State) : (raise e x y s).offers = s.offers := rfl
@[simp] theorem raise_schedule (e : ErrCode) (x y : Byte) (s : State) : (raise e x y s).schedule = s.schedule := rfl

/-! ### resetState -/

@[simp] theorem resetState_W (s : State) : (resetState s).W = 0#32 := rfl
@[simp] theorem resetState_H (s : State) : (resetState s).H = 0#32 := rfl
@[simp] theorem resetState_FPS (s : State) : (resetState s).FPS = 0#16 := rfl
@[simp] theorem resetState_B (s : State) : (resetState s).B = 8#8 := rfl
@[simp] theorem resetState_mode (s : State) : (resetState s).mode = .idle := rfl
@[simp] theorem resetState_phase (s : State) : (resetState s).phase = .pNone := rfl
@[simp] theorem resetState_err (s : State) : (resetState s).err = .noError := rfl
@[simp] theorem resetState_errinfo (s : State) : (resetState s).errinfo = 0#16 := rfl
@[simp] theorem resetState_frame (s : State) : (resetState s).frame = 0#32 := rfl
@[simp] theorem resetState_p (s : State) : (resetState s).p = 0#32 := rfl
@[simp] theorem resetState_keysize (s : State) : (resetState s).keysize = 0#32 := rfl
@[simp] theorem resetState_sub (s : State) : (resetState s).sub = 0#32 := rfl
@[simp] theorem resetState_runFlag (s : State) : (resetState s).runFlag = false := rfl
@[simp] theorem resetState_runLen (s : State) : (resetState s).runLen = 0#7 := rfl
@[simp] theorem resetState_acc (s : State) : (resetState s).acc = [] := rfl
@[simp] theorem resetState_grid (s : State) : (resetState s).grid = [] := rfl
@[simp] theorem resetState_maxPix (s : State) : (resetState s).maxPix = s.maxPix := rfl
@[simp] theorem resetState_out (s : State) : (resetState s).out = s.out := rfl
@[simp] theorem resetState_keyout (s : State) : (resetState s).keyout = s.keyout := rfl
@[simp] theorem resetState_lumout (s : State) : (resetState s).lumout = s.lumout := rfl
@[simp] theorem resetState_rsp (s : State) : (resetState s).rsp = s.rsp := rfl
@[simp] theorem resetState_offers (s : State) : (resetState s).offers = s.offers := rfl
@[simp] theorem resetState_schedule (s : State) : (resetState s).schedule = s.schedule := rfl

/-! ### emitOut -/

@[simp] theorem emitOut_W (bs : List Byte) (s : State) : (emitOut bs s).W = s.W := rfl
@[simp] theorem emitOut_H (bs : List Byte) (s : State) : (emitOut bs s).H = s.H := rfl
@[simp] theorem emitOut_FPS (bs : List Byte) (s : State) : (emitOut bs s).FPS = s.FPS := rfl
@[simp] theorem emitOut_B (bs : List Byte) (s : State) : (emitOut bs s).B = s.B := rfl
@[simp] theorem emitOut_mode (bs : List Byte) (s : State) : (emitOut bs s).mode = s.mode := rfl
@[simp] theorem emitOut_phase (bs : List Byte) (s : State) : (emitOut bs s).phase = s.phase := rfl
@[simp] theorem emitOut_err (bs : List Byte) (s : State) : (emitOut bs s).err = s.err := rfl
@[simp] theorem emitOut_errinfo (bs : List Byte) (s : State) : (emitOut bs s).errinfo = s.errinfo := rfl
@[simp] theorem emitOut_frame (bs : List Byte) (s : State) : (emitOut bs s).frame = s.frame := rfl
@[simp] theorem emitOut_p (bs : List Byte) (s : State) : (emitOut bs s).p = s.p := rfl
@[simp] theorem emitOut_keysize (bs : List Byte) (s : State) : (emitOut bs s).keysize = s.keysize := rfl
@[simp] theorem emitOut_sub (bs : List Byte) (s : State) : (emitOut bs s).sub = s.sub := rfl
@[simp] theorem emitOut_runFlag (bs : List Byte) (s : State) : (emitOut bs s).runFlag = s.runFlag := rfl
@[simp] theorem emitOut_runLen (bs : List Byte) (s : State) : (emitOut bs s).runLen = s.runLen := rfl
@[simp] theorem emitOut_acc (bs : List Byte) (s : State) : (emitOut bs s).acc = s.acc := rfl
@[simp] theorem emitOut_grid (bs : List Byte) (s : State) : (emitOut bs s).grid = s.grid := rfl
@[simp] theorem emitOut_maxPix (bs : List Byte) (s : State) : (emitOut bs s).maxPix = s.maxPix := rfl
@[simp] theorem emitOut_out (bs : List Byte) (s : State) : (emitOut bs s).out = s.out ++ bs := rfl
@[simp] theorem emitOut_keyout (bs : List Byte) (s : State) : (emitOut bs s).keyout = s.keyout := rfl
@[simp] theorem emitOut_lumout (bs : List Byte) (s : State) : (emitOut bs s).lumout = s.lumout := rfl
@[simp] theorem emitOut_rsp (bs : List Byte) (s : State) : (emitOut bs s).rsp = s.rsp := rfl
@[simp] theorem emitOut_offers (bs : List Byte) (s : State) : (emitOut bs s).offers = s.offers := rfl
@[simp] theorem emitOut_schedule (bs : List Byte) (s : State) : (emitOut bs s).schedule = s.schedule := rfl

/-! ### emitKey -/

@[simp] theorem emitKey_W (r : KeyRec) (s : State) : (emitKey r s).W = s.W := rfl
@[simp] theorem emitKey_H (r : KeyRec) (s : State) : (emitKey r s).H = s.H := rfl
@[simp] theorem emitKey_FPS (r : KeyRec) (s : State) : (emitKey r s).FPS = s.FPS := rfl
@[simp] theorem emitKey_B (r : KeyRec) (s : State) : (emitKey r s).B = s.B := rfl
@[simp] theorem emitKey_mode (r : KeyRec) (s : State) : (emitKey r s).mode = s.mode := rfl
@[simp] theorem emitKey_phase (r : KeyRec) (s : State) : (emitKey r s).phase = s.phase := rfl
@[simp] theorem emitKey_err (r : KeyRec) (s : State) : (emitKey r s).err = s.err := rfl
@[simp] theorem emitKey_errinfo (r : KeyRec) (s : State) : (emitKey r s).errinfo = s.errinfo := rfl
@[simp] theorem emitKey_frame (r : KeyRec) (s : State) : (emitKey r s).frame = s.frame := rfl
@[simp] theorem emitKey_p (r : KeyRec) (s : State) : (emitKey r s).p = s.p := rfl
@[simp] theorem emitKey_keysize (r : KeyRec) (s : State) : (emitKey r s).keysize = s.keysize := rfl
@[simp] theorem emitKey_sub (r : KeyRec) (s : State) : (emitKey r s).sub = s.sub := rfl
@[simp] theorem emitKey_runFlag (r : KeyRec) (s : State) : (emitKey r s).runFlag = s.runFlag := rfl
@[simp] theorem emitKey_runLen (r : KeyRec) (s : State) : (emitKey r s).runLen = s.runLen := rfl
@[simp] theorem emitKey_acc (r : KeyRec) (s : State) : (emitKey r s).acc = s.acc := rfl
@[simp] theorem emitKey_grid (r : KeyRec) (s : State) : (emitKey r s).grid = s.grid := rfl
@[simp] theorem emitKey_maxPix (r : KeyRec) (s : State) : (emitKey r s).maxPix = s.maxPix := rfl
@[simp] theorem emitKey_out (r : KeyRec) (s : State) : (emitKey r s).out = s.out := rfl
@[simp] theorem emitKey_keyout (r : KeyRec) (s : State) : (emitKey r s).keyout = s.keyout ++ [r] := rfl
@[simp] theorem emitKey_lumout (r : KeyRec) (s : State) : (emitKey r s).lumout = s.lumout := rfl
@[simp] theorem emitKey_rsp (r : KeyRec) (s : State) : (emitKey r s).rsp = s.rsp := rfl
@[simp] theorem emitKey_offers (r : KeyRec) (s : State) : (emitKey r s).offers = s.offers := rfl
@[simp] theorem emitKey_schedule (r : KeyRec) (s : State) : (emitKey r s).schedule = s.schedule := rfl

/-! ### emitLum -/

@[simp] theorem emitLum_W (r : LumRec) (s : State) : (emitLum r s).W = s.W := rfl
@[simp] theorem emitLum_H (r : LumRec) (s : State) : (emitLum r s).H = s.H := rfl
@[simp] theorem emitLum_FPS (r : LumRec) (s : State) : (emitLum r s).FPS = s.FPS := rfl
@[simp] theorem emitLum_B (r : LumRec) (s : State) : (emitLum r s).B = s.B := rfl
@[simp] theorem emitLum_mode (r : LumRec) (s : State) : (emitLum r s).mode = s.mode := rfl
@[simp] theorem emitLum_phase (r : LumRec) (s : State) : (emitLum r s).phase = s.phase := rfl
@[simp] theorem emitLum_err (r : LumRec) (s : State) : (emitLum r s).err = s.err := rfl
@[simp] theorem emitLum_errinfo (r : LumRec) (s : State) : (emitLum r s).errinfo = s.errinfo := rfl
@[simp] theorem emitLum_frame (r : LumRec) (s : State) : (emitLum r s).frame = s.frame := rfl
@[simp] theorem emitLum_p (r : LumRec) (s : State) : (emitLum r s).p = s.p := rfl
@[simp] theorem emitLum_keysize (r : LumRec) (s : State) : (emitLum r s).keysize = s.keysize := rfl
@[simp] theorem emitLum_sub (r : LumRec) (s : State) : (emitLum r s).sub = s.sub := rfl
@[simp] theorem emitLum_runFlag (r : LumRec) (s : State) : (emitLum r s).runFlag = s.runFlag := rfl
@[simp] theorem emitLum_runLen (r : LumRec) (s : State) : (emitLum r s).runLen = s.runLen := rfl
@[simp] theorem emitLum_acc (r : LumRec) (s : State) : (emitLum r s).acc = s.acc := rfl
@[simp] theorem emitLum_grid (r : LumRec) (s : State) : (emitLum r s).grid = s.grid := rfl
@[simp] theorem emitLum_maxPix (r : LumRec) (s : State) : (emitLum r s).maxPix = s.maxPix := rfl
@[simp] theorem emitLum_out (r : LumRec) (s : State) : (emitLum r s).out = s.out := rfl
@[simp] theorem emitLum_keyout (r : LumRec) (s : State) : (emitLum r s).keyout = s.keyout := rfl
@[simp] theorem emitLum_lumout (r : LumRec) (s : State) : (emitLum r s).lumout = s.lumout ++ [r] := rfl
@[simp] theorem emitLum_rsp (r : LumRec) (s : State) : (emitLum r s).rsp = s.rsp := rfl
@[simp] theorem emitLum_offers (r : LumRec) (s : State) : (emitLum r s).offers = s.offers := rfl
@[simp] theorem emitLum_schedule (r : LumRec) (s : State) : (emitLum r s).schedule = s.schedule := rfl

/-! ### emitRsp -/

@[simp] theorem emitRsp_W (v : Word) (s : State) : (emitRsp v s).W = s.W := rfl
@[simp] theorem emitRsp_H (v : Word) (s : State) : (emitRsp v s).H = s.H := rfl
@[simp] theorem emitRsp_FPS (v : Word) (s : State) : (emitRsp v s).FPS = s.FPS := rfl
@[simp] theorem emitRsp_B (v : Word) (s : State) : (emitRsp v s).B = s.B := rfl
@[simp] theorem emitRsp_mode (v : Word) (s : State) : (emitRsp v s).mode = s.mode := rfl
@[simp] theorem emitRsp_phase (v : Word) (s : State) : (emitRsp v s).phase = s.phase := rfl
@[simp] theorem emitRsp_err (v : Word) (s : State) : (emitRsp v s).err = s.err := rfl
@[simp] theorem emitRsp_errinfo (v : Word) (s : State) : (emitRsp v s).errinfo = s.errinfo := rfl
@[simp] theorem emitRsp_frame (v : Word) (s : State) : (emitRsp v s).frame = s.frame := rfl
@[simp] theorem emitRsp_p (v : Word) (s : State) : (emitRsp v s).p = s.p := rfl
@[simp] theorem emitRsp_keysize (v : Word) (s : State) : (emitRsp v s).keysize = s.keysize := rfl
@[simp] theorem emitRsp_sub (v : Word) (s : State) : (emitRsp v s).sub = s.sub := rfl
@[simp] theorem emitRsp_runFlag (v : Word) (s : State) : (emitRsp v s).runFlag = s.runFlag := rfl
@[simp] theorem emitRsp_runLen (v : Word) (s : State) : (emitRsp v s).runLen = s.runLen := rfl
@[simp] theorem emitRsp_acc (v : Word) (s : State) : (emitRsp v s).acc = s.acc := rfl
@[simp] theorem emitRsp_grid (v : Word) (s : State) : (emitRsp v s).grid = s.grid := rfl
@[simp] theorem emitRsp_maxPix (v : Word) (s : State) : (emitRsp v s).maxPix = s.maxPix := rfl
@[simp] theorem emitRsp_out (v : Word) (s : State) : (emitRsp v s).out = s.out := rfl
@[simp] theorem emitRsp_keyout (v : Word) (s : State) : (emitRsp v s).keyout = s.keyout := rfl
@[simp] theorem emitRsp_lumout (v : Word) (s : State) : (emitRsp v s).lumout = s.lumout := rfl
@[simp] theorem emitRsp_rsp (v : Word) (s : State) : (emitRsp v s).rsp = s.rsp ++ [v] := rfl
@[simp] theorem emitRsp_offers (v : Word) (s : State) : (emitRsp v s).offers = s.offers := rfl
@[simp] theorem emitRsp_schedule (v : Word) (s : State) : (emitRsp v s).schedule = s.schedule := rfl

/-! ### accBump -/

@[simp] theorem accBump_W (i : Nat) (inc : Bool) (s : State) : (accBump i inc s).W = s.W := rfl
@[simp] theorem accBump_H (i : Nat) (inc : Bool) (s : State) : (accBump i inc s).H = s.H := rfl
@[simp] theorem accBump_FPS (i : Nat) (inc : Bool) (s : State) : (accBump i inc s).FPS = s.FPS := rfl
@[simp] theorem accBump_B (i : Nat) (inc : Bool) (s : State) : (accBump i inc s).B = s.B := rfl
@[simp] theorem accBump_mode (i : Nat) (inc : Bool) (s : State) : (accBump i inc s).mode = s.mode := rfl
@[simp] theorem accBump_phase (i : Nat) (inc : Bool) (s : State) : (accBump i inc s).phase = s.phase := rfl
@[simp] theorem accBump_err (i : Nat) (inc : Bool) (s : State) : (accBump i inc s).err = s.err := rfl
@[simp] theorem accBump_errinfo (i : Nat) (inc : Bool) (s : State) : (accBump i inc s).errinfo = s.errinfo := rfl
@[simp] theorem accBump_frame (i : Nat) (inc : Bool) (s : State) : (accBump i inc s).frame = s.frame := rfl
@[simp] theorem accBump_p (i : Nat) (inc : Bool) (s : State) : (accBump i inc s).p = s.p := rfl
@[simp] theorem accBump_keysize (i : Nat) (inc : Bool) (s : State) : (accBump i inc s).keysize = s.keysize := rfl
@[simp] theorem accBump_sub (i : Nat) (inc : Bool) (s : State) : (accBump i inc s).sub = s.sub := rfl
@[simp] theorem accBump_runFlag (i : Nat) (inc : Bool) (s : State) : (accBump i inc s).runFlag = s.runFlag := rfl
@[simp] theorem accBump_runLen (i : Nat) (inc : Bool) (s : State) : (accBump i inc s).runLen = s.runLen := rfl
@[simp] theorem accBump_acc (i : Nat) (inc : Bool) (s : State) : (accBump i inc s).acc = s.acc.write accZero i (bump (accRead s i) inc) := rfl
@[simp] theorem accBump_grid (i : Nat) (inc : Bool) (s : State) : (accBump i inc s).grid = s.grid := rfl
@[simp] theorem accBump_maxPix (i : Nat) (inc : Bool) (s : State) : (accBump i inc s).maxPix = s.maxPix := rfl
@[simp] theorem accBump_out (i : Nat) (inc : Bool) (s : State) : (accBump i inc s).out = s.out := rfl
@[simp] theorem accBump_keyout (i : Nat) (inc : Bool) (s : State) : (accBump i inc s).keyout = s.keyout := rfl
@[simp] theorem accBump_lumout (i : Nat) (inc : Bool) (s : State) : (accBump i inc s).lumout = s.lumout := rfl
@[simp] theorem accBump_rsp (i : Nat) (inc : Bool) (s : State) : (accBump i inc s).rsp = s.rsp := rfl
@[simp] theorem accBump_offers (i : Nat) (inc : Bool) (s : State) : (accBump i inc s).offers = s.offers := rfl
@[simp] theorem accBump_schedule (i : Nat) (inc : Bool) (s : State) : (accBump i inc s).schedule = s.schedule := rfl

/-! ### zeroAcc -/

@[simp] theorem zeroAcc_W (s : State) : (zeroAcc s).W = s.W := rfl
@[simp] theorem zeroAcc_H (s : State) : (zeroAcc s).H = s.H := rfl
@[simp] theorem zeroAcc_FPS (s : State) : (zeroAcc s).FPS = s.FPS := rfl
@[simp] theorem zeroAcc_B (s : State) : (zeroAcc s).B = s.B := rfl
@[simp] theorem zeroAcc_mode (s : State) : (zeroAcc s).mode = s.mode := rfl
@[simp] theorem zeroAcc_phase (s : State) : (zeroAcc s).phase = s.phase := rfl
@[simp] theorem zeroAcc_err (s : State) : (zeroAcc s).err = s.err := rfl
@[simp] theorem zeroAcc_errinfo (s : State) : (zeroAcc s).errinfo = s.errinfo := rfl
@[simp] theorem zeroAcc_frame (s : State) : (zeroAcc s).frame = s.frame := rfl
@[simp] theorem zeroAcc_p (s : State) : (zeroAcc s).p = s.p := rfl
@[simp] theorem zeroAcc_keysize (s : State) : (zeroAcc s).keysize = s.keysize := rfl
@[simp] theorem zeroAcc_sub (s : State) : (zeroAcc s).sub = s.sub := rfl
@[simp] theorem zeroAcc_runFlag (s : State) : (zeroAcc s).runFlag = s.runFlag := rfl
@[simp] theorem zeroAcc_runLen (s : State) : (zeroAcc s).runLen = s.runLen := rfl
@[simp] theorem zeroAcc_acc (s : State) : (zeroAcc s).acc = s.acc.clearBelow s.N := rfl
@[simp] theorem zeroAcc_grid (s : State) : (zeroAcc s).grid = s.grid := rfl
@[simp] theorem zeroAcc_maxPix (s : State) : (zeroAcc s).maxPix = s.maxPix := rfl
@[simp] theorem zeroAcc_out (s : State) : (zeroAcc s).out = s.out := rfl
@[simp] theorem zeroAcc_keyout (s : State) : (zeroAcc s).keyout = s.keyout := rfl
@[simp] theorem zeroAcc_lumout (s : State) : (zeroAcc s).lumout = s.lumout := rfl
@[simp] theorem zeroAcc_rsp (s : State) : (zeroAcc s).rsp = s.rsp := rfl
@[simp] theorem zeroAcc_offers (s : State) : (zeroAcc s).offers = s.offers := rfl
@[simp] theorem zeroAcc_schedule (s : State) : (zeroAcc s).schedule = s.schedule := rfl

/-! ### gridWrite -/

@[simp] theorem gridWrite_W (g : Nat) (c : Rgb) (s : State) : (gridWrite g c s).W = s.W := rfl
@[simp] theorem gridWrite_H (g : Nat) (c : Rgb) (s : State) : (gridWrite g c s).H = s.H := rfl
@[simp] theorem gridWrite_FPS (g : Nat) (c : Rgb) (s : State) : (gridWrite g c s).FPS = s.FPS := rfl
@[simp] theorem gridWrite_B (g : Nat) (c : Rgb) (s : State) : (gridWrite g c s).B = s.B := rfl
@[simp] theorem gridWrite_mode (g : Nat) (c : Rgb) (s : State) : (gridWrite g c s).mode = s.mode := rfl
@[simp] theorem gridWrite_phase (g : Nat) (c : Rgb) (s : State) : (gridWrite g c s).phase = s.phase := rfl
@[simp] theorem gridWrite_err (g : Nat) (c : Rgb) (s : State) : (gridWrite g c s).err = s.err := rfl
@[simp] theorem gridWrite_errinfo (g : Nat) (c : Rgb) (s : State) : (gridWrite g c s).errinfo = s.errinfo := rfl
@[simp] theorem gridWrite_frame (g : Nat) (c : Rgb) (s : State) : (gridWrite g c s).frame = s.frame := rfl
@[simp] theorem gridWrite_p (g : Nat) (c : Rgb) (s : State) : (gridWrite g c s).p = s.p := rfl
@[simp] theorem gridWrite_keysize (g : Nat) (c : Rgb) (s : State) : (gridWrite g c s).keysize = s.keysize := rfl
@[simp] theorem gridWrite_sub (g : Nat) (c : Rgb) (s : State) : (gridWrite g c s).sub = s.sub := rfl
@[simp] theorem gridWrite_runFlag (g : Nat) (c : Rgb) (s : State) : (gridWrite g c s).runFlag = s.runFlag := rfl
@[simp] theorem gridWrite_runLen (g : Nat) (c : Rgb) (s : State) : (gridWrite g c s).runLen = s.runLen := rfl
@[simp] theorem gridWrite_acc (g : Nat) (c : Rgb) (s : State) : (gridWrite g c s).acc = s.acc := rfl
@[simp] theorem gridWrite_grid (g : Nat) (c : Rgb) (s : State) : (gridWrite g c s).grid = s.grid.write gridZero g c := rfl
@[simp] theorem gridWrite_maxPix (g : Nat) (c : Rgb) (s : State) : (gridWrite g c s).maxPix = s.maxPix := rfl
@[simp] theorem gridWrite_out (g : Nat) (c : Rgb) (s : State) : (gridWrite g c s).out = s.out := rfl
@[simp] theorem gridWrite_keyout (g : Nat) (c : Rgb) (s : State) : (gridWrite g c s).keyout = s.keyout := rfl
@[simp] theorem gridWrite_lumout (g : Nat) (c : Rgb) (s : State) : (gridWrite g c s).lumout = s.lumout := rfl
@[simp] theorem gridWrite_rsp (g : Nat) (c : Rgb) (s : State) : (gridWrite g c s).rsp = s.rsp := rfl
@[simp] theorem gridWrite_offers (g : Nat) (c : Rgb) (s : State) : (gridWrite g c s).offers = s.offers := rfl
@[simp] theorem gridWrite_schedule (g : Nat) (c : Rgb) (s : State) : (gridWrite g c s).schedule = s.schedule := rfl

/-! ### countFrame -/

@[simp] theorem countFrame_W (s : State) : (countFrame s).W = s.W := rfl
@[simp] theorem countFrame_H (s : State) : (countFrame s).H = s.H := rfl
@[simp] theorem countFrame_FPS (s : State) : (countFrame s).FPS = s.FPS := rfl
@[simp] theorem countFrame_B (s : State) : (countFrame s).B = s.B := rfl
@[simp] theorem countFrame_mode (s : State) : (countFrame s).mode = s.mode := rfl
@[simp] theorem countFrame_phase (s : State) : (countFrame s).phase = s.phase := rfl
@[simp] theorem countFrame_err (s : State) : (countFrame s).err = s.err := rfl
@[simp] theorem countFrame_errinfo (s : State) : (countFrame s).errinfo = s.errinfo := rfl
@[simp] theorem countFrame_frame (s : State) : (countFrame s).frame = s.frame + 1#32 := rfl
@[simp] theorem countFrame_p (s : State) : (countFrame s).p = 0#32 := rfl
@[simp] theorem countFrame_keysize (s : State) : (countFrame s).keysize = s.keysize := rfl
@[simp] theorem countFrame_sub (s : State) : (countFrame s).sub = s.sub := rfl
@[simp] theorem countFrame_runFlag (s : State) : (countFrame s).runFlag = s.runFlag := rfl
@[simp] theorem countFrame_runLen (s : State) : (countFrame s).runLen = s.runLen := rfl
@[simp] theorem countFrame_acc (s : State) : (countFrame s).acc = s.acc := rfl
@[simp] theorem countFrame_grid (s : State) : (countFrame s).grid = s.grid := rfl
@[simp] theorem countFrame_maxPix (s : State) : (countFrame s).maxPix = s.maxPix := rfl
@[simp] theorem countFrame_out (s : State) : (countFrame s).out = s.out := rfl
@[simp] theorem countFrame_keyout (s : State) : (countFrame s).keyout = s.keyout := rfl
@[simp] theorem countFrame_lumout (s : State) : (countFrame s).lumout = s.lumout := rfl
@[simp] theorem countFrame_rsp (s : State) : (countFrame s).rsp = s.rsp := rfl
@[simp] theorem countFrame_offers (s : State) : (countFrame s).offers = s.offers := rfl
@[simp] theorem countFrame_schedule (s : State) : (countFrame s).schedule = s.schedule := rfl

/-! ### advanceP -/

@[simp] theorem advanceP_W (s : State) : (advanceP s).W = s.W := rfl
@[simp] theorem advanceP_H (s : State) : (advanceP s).H = s.H := rfl
@[simp] theorem advanceP_FPS (s : State) : (advanceP s).FPS = s.FPS := rfl
@[simp] theorem advanceP_B (s : State) : (advanceP s).B = s.B := rfl
@[simp] theorem advanceP_mode (s : State) : (advanceP s).mode = s.mode := rfl
@[simp] theorem advanceP_phase (s : State) : (advanceP s).phase = s.phase := rfl
@[simp] theorem advanceP_err (s : State) : (advanceP s).err = s.err := rfl
@[simp] theorem advanceP_errinfo (s : State) : (advanceP s).errinfo = s.errinfo := rfl
@[simp] theorem advanceP_frame (s : State) : (advanceP s).frame = s.frame := rfl
@[simp] theorem advanceP_p (s : State) : (advanceP s).p = s.p + 1#32 := rfl
@[simp] theorem advanceP_keysize (s : State) : (advanceP s).keysize = s.keysize := rfl
@[simp] theorem advanceP_sub (s : State) : (advanceP s).sub = s.sub := rfl
@[simp] theorem advanceP_runFlag (s : State) : (advanceP s).runFlag = s.runFlag := rfl
@[simp] theorem advanceP_runLen (s : State) : (advanceP s).runLen = s.runLen := rfl
@[simp] theorem advanceP_acc (s : State) : (advanceP s).acc = s.acc := rfl
@[simp] theorem advanceP_grid (s : State) : (advanceP s).grid = s.grid := rfl
@[simp] theorem advanceP_maxPix (s : State) : (advanceP s).maxPix = s.maxPix := rfl
@[simp] theorem advanceP_out (s : State) : (advanceP s).out = s.out := rfl
@[simp] theorem advanceP_keyout (s : State) : (advanceP s).keyout = s.keyout := rfl
@[simp] theorem advanceP_lumout (s : State) : (advanceP s).lumout = s.lumout := rfl
@[simp] theorem advanceP_rsp (s : State) : (advanceP s).rsp = s.rsp := rfl
@[simp] theorem advanceP_offers (s : State) : (advanceP s).offers = s.offers := rfl
@[simp] theorem advanceP_schedule (s : State) : (advanceP s).schedule = s.schedule := rfl

/-! ### openRun -/

@[simp] theorem openRun_W (bit : Bool) (s : State) : (openRun bit s).W = s.W := rfl
@[simp] theorem openRun_H (bit : Bool) (s : State) : (openRun bit s).H = s.H := rfl
@[simp] theorem openRun_FPS (bit : Bool) (s : State) : (openRun bit s).FPS = s.FPS := rfl
@[simp] theorem openRun_B (bit : Bool) (s : State) : (openRun bit s).B = s.B := rfl
@[simp] theorem openRun_mode (bit : Bool) (s : State) : (openRun bit s).mode = s.mode := rfl
@[simp] theorem openRun_phase (bit : Bool) (s : State) : (openRun bit s).phase = s.phase := rfl
@[simp] theorem openRun_err (bit : Bool) (s : State) : (openRun bit s).err = s.err := rfl
@[simp] theorem openRun_errinfo (bit : Bool) (s : State) : (openRun bit s).errinfo = s.errinfo := rfl
@[simp] theorem openRun_frame (bit : Bool) (s : State) : (openRun bit s).frame = s.frame := rfl
@[simp] theorem openRun_p (bit : Bool) (s : State) : (openRun bit s).p = s.p := rfl
@[simp] theorem openRun_keysize (bit : Bool) (s : State) : (openRun bit s).keysize = s.keysize := rfl
@[simp] theorem openRun_sub (bit : Bool) (s : State) : (openRun bit s).sub = s.sub := rfl
@[simp] theorem openRun_runFlag (bit : Bool) (s : State) : (openRun bit s).runFlag = bit := rfl
@[simp] theorem openRun_runLen (bit : Bool) (s : State) : (openRun bit s).runLen = 1#7 := rfl
@[simp] theorem openRun_acc (bit : Bool) (s : State) : (openRun bit s).acc = s.acc := rfl
@[simp] theorem openRun_grid (bit : Bool) (s : State) : (openRun bit s).grid = s.grid := rfl
@[simp] theorem openRun_maxPix (bit : Bool) (s : State) : (openRun bit s).maxPix = s.maxPix := rfl
@[simp] theorem openRun_out (bit : Bool) (s : State) : (openRun bit s).out = s.out := rfl
@[simp] theorem openRun_keyout (bit : Bool) (s : State) : (openRun bit s).keyout = s.keyout := rfl
@[simp] theorem openRun_lumout (bit : Bool) (s : State) : (openRun bit s).lumout = s.lumout := rfl
@[simp] theorem openRun_rsp (bit : Bool) (s : State) : (openRun bit s).rsp = s.rsp := rfl
@[simp] theorem openRun_offers (bit : Bool) (s : State) : (openRun bit s).offers = s.offers := rfl
@[simp] theorem openRun_schedule (bit : Bool) (s : State) : (openRun bit s).schedule = s.schedule := rfl

/-! ### rleEmit -/

@[simp] theorem rleEmit_W (s : State) : (rleEmit s).W = s.W := rfl
@[simp] theorem rleEmit_H (s : State) : (rleEmit s).H = s.H := rfl
@[simp] theorem rleEmit_FPS (s : State) : (rleEmit s).FPS = s.FPS := rfl
@[simp] theorem rleEmit_B (s : State) : (rleEmit s).B = s.B := rfl
@[simp] theorem rleEmit_mode (s : State) : (rleEmit s).mode = s.mode := rfl
@[simp] theorem rleEmit_phase (s : State) : (rleEmit s).phase = s.phase := rfl
@[simp] theorem rleEmit_err (s : State) : (rleEmit s).err = s.err := rfl
@[simp] theorem rleEmit_errinfo (s : State) : (rleEmit s).errinfo = s.errinfo := rfl
@[simp] theorem rleEmit_frame (s : State) : (rleEmit s).frame = s.frame := rfl
@[simp] theorem rleEmit_p (s : State) : (rleEmit s).p = s.p := rfl
@[simp] theorem rleEmit_keysize (s : State) : (rleEmit s).keysize = s.keysize := rfl
@[simp] theorem rleEmit_sub (s : State) : (rleEmit s).sub = s.sub := rfl
@[simp] theorem rleEmit_runFlag (s : State) : (rleEmit s).runFlag = s.runFlag := rfl
@[simp] theorem rleEmit_runLen (s : State) : (rleEmit s).runLen = 0#7 := rfl
@[simp] theorem rleEmit_acc (s : State) : (rleEmit s).acc = s.acc := rfl
@[simp] theorem rleEmit_grid (s : State) : (rleEmit s).grid = s.grid := rfl
@[simp] theorem rleEmit_maxPix (s : State) : (rleEmit s).maxPix = s.maxPix := rfl
@[simp] theorem rleEmit_out (s : State) : (rleEmit s).out = s.out ++ [rleByte s.runFlag s.runLen] := rfl
@[simp] theorem rleEmit_keyout (s : State) : (rleEmit s).keyout = s.keyout := rfl
@[simp] theorem rleEmit_lumout (s : State) : (rleEmit s).lumout = s.lumout := rfl
@[simp] theorem rleEmit_rsp (s : State) : (rleEmit s).rsp = s.rsp := rfl
@[simp] theorem rleEmit_offers (s : State) : (rleEmit s).offers = s.offers := rfl
@[simp] theorem rleEmit_schedule (s : State) : (rleEmit s).schedule = s.schedule := rfl

/-! ### State.offer -/

@[simp] theorem State.offer_W (s : State) (t : Transfer) : (s.offer t).W = s.W := rfl
@[simp] theorem State.offer_H (s : State) (t : Transfer) : (s.offer t).H = s.H := rfl
@[simp] theorem State.offer_FPS (s : State) (t : Transfer) : (s.offer t).FPS = s.FPS := rfl
@[simp] theorem State.offer_B (s : State) (t : Transfer) : (s.offer t).B = s.B := rfl
@[simp] theorem State.offer_mode (s : State) (t : Transfer) : (s.offer t).mode = s.mode := rfl
@[simp] theorem State.offer_phase (s : State) (t : Transfer) : (s.offer t).phase = s.phase := rfl
@[simp] theorem State.offer_err (s : State) (t : Transfer) : (s.offer t).err = s.err := rfl
@[simp] theorem State.offer_errinfo (s : State) (t : Transfer) : (s.offer t).errinfo = s.errinfo := rfl
@[simp] theorem State.offer_frame (s : State) (t : Transfer) : (s.offer t).frame = s.frame := rfl
@[simp] theorem State.offer_p (s : State) (t : Transfer) : (s.offer t).p = s.p := rfl
@[simp] theorem State.offer_keysize (s : State) (t : Transfer) : (s.offer t).keysize = s.keysize := rfl
@[simp] theorem State.offer_sub (s : State) (t : Transfer) : (s.offer t).sub = s.sub := rfl
@[simp] theorem State.offer_runFlag (s : State) (t : Transfer) : (s.offer t).runFlag = s.runFlag := rfl
@[simp] theorem State.offer_runLen (s : State) (t : Transfer) : (s.offer t).runLen = s.runLen := rfl
@[simp] theorem State.offer_acc (s : State) (t : Transfer) : (s.offer t).acc = s.acc := rfl
@[simp] theorem State.offer_grid (s : State) (t : Transfer) : (s.offer t).grid = s.grid := rfl
@[simp] theorem State.offer_maxPix (s : State) (t : Transfer) : (s.offer t).maxPix = s.maxPix := rfl
@[simp] theorem State.offer_out (s : State) (t : Transfer) : (s.offer t).out = s.out := rfl
@[simp] theorem State.offer_keyout (s : State) (t : Transfer) : (s.offer t).keyout = s.keyout := rfl
@[simp] theorem State.offer_lumout (s : State) (t : Transfer) : (s.offer t).lumout = s.lumout := rfl
@[simp] theorem State.offer_rsp (s : State) (t : Transfer) : (s.offer t).rsp = s.rsp := rfl
@[simp] theorem State.offer_offers (s : State) (t : Transfer) : (s.offer t).offers = s.offers.push t := rfl
@[simp] theorem State.offer_schedule (s : State) (t : Transfer) : (s.offer t).schedule = t.channel :: s.schedule := rfl

/-! ### takeOffer -/

@[simp] theorem takeOffer_W (c : Channel) (rest : List Channel) (s : State) : (takeOffer c rest s).W = s.W := rfl
@[simp] theorem takeOffer_H (c : Channel) (rest : List Channel) (s : State) : (takeOffer c rest s).H = s.H := rfl
@[simp] theorem takeOffer_FPS (c : Channel) (rest : List Channel) (s : State) : (takeOffer c rest s).FPS = s.FPS := rfl
@[simp] theorem takeOffer_B (c : Channel) (rest : List Channel) (s : State) : (takeOffer c rest s).B = s.B := rfl
@[simp] theorem takeOffer_mode (c : Channel) (rest : List Channel) (s : State) : (takeOffer c rest s).mode = s.mode := rfl
@[simp] theorem takeOffer_phase (c : Channel) (rest : List Channel) (s : State) : (takeOffer c rest s).phase = s.phase := rfl
@[simp] theorem takeOffer_err (c : Channel) (rest : List Channel) (s : State) : (takeOffer c rest s).err = s.err := rfl
@[simp] theorem takeOffer_errinfo (c : Channel) (rest : List Channel) (s : State) : (takeOffer c rest s).errinfo = s.errinfo := rfl
@[simp] theorem takeOffer_frame (c : Channel) (rest : List Channel) (s : State) : (takeOffer c rest s).frame = s.frame := rfl
@[simp] theorem takeOffer_p (c : Channel) (rest : List Channel) (s : State) : (takeOffer c rest s).p = s.p := rfl
@[simp] theorem takeOffer_keysize (c : Channel) (rest : List Channel) (s : State) : (takeOffer c rest s).keysize = s.keysize := rfl
@[simp] theorem takeOffer_sub (c : Channel) (rest : List Channel) (s : State) : (takeOffer c rest s).sub = s.sub := rfl
@[simp] theorem takeOffer_runFlag (c : Channel) (rest : List Channel) (s : State) : (takeOffer c rest s).runFlag = s.runFlag := rfl
@[simp] theorem takeOffer_runLen (c : Channel) (rest : List Channel) (s : State) : (takeOffer c rest s).runLen = s.runLen := rfl
@[simp] theorem takeOffer_acc (c : Channel) (rest : List Channel) (s : State) : (takeOffer c rest s).acc = s.acc := rfl
@[simp] theorem takeOffer_grid (c : Channel) (rest : List Channel) (s : State) : (takeOffer c rest s).grid = s.grid := rfl
@[simp] theorem takeOffer_maxPix (c : Channel) (rest : List Channel) (s : State) : (takeOffer c rest s).maxPix = s.maxPix := rfl
@[simp] theorem takeOffer_out (c : Channel) (rest : List Channel) (s : State) : (takeOffer c rest s).out = s.out := rfl
@[simp] theorem takeOffer_keyout (c : Channel) (rest : List Channel) (s : State) : (takeOffer c rest s).keyout = s.keyout := rfl
@[simp] theorem takeOffer_lumout (c : Channel) (rest : List Channel) (s : State) : (takeOffer c rest s).lumout = s.lumout := rfl
@[simp] theorem takeOffer_rsp (c : Channel) (rest : List Channel) (s : State) : (takeOffer c rest s).rsp = s.rsp := rfl
@[simp] theorem takeOffer_offers (c : Channel) (rest : List Channel) (s : State) : (takeOffer c rest s).offers = s.offers.pop c := rfl
@[simp] theorem takeOffer_schedule (c : Channel) (rest : List Channel) (s : State) : (takeOffer c rest s).schedule = rest := rfl

end Sys2Proof.Machine
end

