-- ==== Sys2Proof/Laws/Ops.lean ====
section
/-! SUPPORT. For each shared operation, once, everything it can do. -/

namespace Sys2Proof.Machine

/-! ### Acceptance -/

/-- A guarded operation makes a next state exactly when its guard holds and its effect is that state. -/
theorem guarded_next {g : Bool} {r : Result} {t : State} : guarded g r = .next t ↔ g = true ∧ r = .next t := by
  cases g <;> simp [guarded]

/-- A guarded operation faults exactly when its guard holds and its effect faults. -/
theorem guarded_fault {g : Bool} {r : Result} {f : Fault} : guarded g r = .fault f ↔ g = true ∧ r = .fault f := by
  cases g <;> simp [guarded]

/-- A guarded operation is refused exactly when its guard is false, or its effect is. -/
theorem guarded_refused {g : Bool} {r : Result} {q : Refusal} :
    guarded g r = .refused q ↔ (g = false ∧ q = .notAccepted) ∨ (g = true ∧ r = .refused q) := by
  cases g <;> simp [guarded, eq_comm]

@[simp] theorem guarded_true (r : Result) : guarded true r = r := rfl

@[simp] theorem guarded_false (r : Result) : guarded false r = .refused .notAccepted := rfl

/-- The cells are there and the effect is the state. -/
theorem withCells_next {n : Nat} {s t : State} {r : Result} :
    withCells n s r = .next t ↔ cellsExist s n = true ∧ r = .next t := by
  cases h : cellsExist s n <;> simp [withCells, h]

/-- What cellsExist says. -/
theorem cellsExist_iff {s : State} {n : Nat} :
    cellsExist s n = true ↔ s.p.toNat + n ≤ s.N ∧ ∀ k < n, cellOf s (s.p.toNat + k) < s.NC := by
  simp [cellsExist]

/-! ### Offers -/

/-- A transfer the block is ready to accept is no reserved encoding, and its operation's guard is true. -/
theorem acceptedAs_some {s : State} {o : Transfer} {i : Instr} :
    acceptedAs s o = some i ↔ decode s.phase s.sub o = .ok i ∧ accepts i s = true := by
  unfold acceptedAs
  cases decode s.phase s.sub o with
  | rejected why => simp
  | ok j =>
    simp only [Decoded.ok.injEq]
    constructor
    · intro h
      split at h
      · cases h
        exact ⟨rfl, ‹_›⟩
      · cases h
    · rintro ⟨rfl, h⟩
      simp [h]

/-- What the block is ready to accept on a channel: its pending transfer, read where the block stands. -/
theorem acceptable_some {s : State} {c : Channel} {i : Instr} :
    acceptable s c = some i ↔
      ∃ o, s.offers.head c = some o ∧ decode s.phase s.sub o = .ok i ∧ accepts i s = true := by
  simp [acceptable, Option.bind_eq_some_iff, acceptedAs_some]

/-- The channel picked is the first of the list that can be served. -/
theorem pickFrom_some {s : State} {cs : List Channel} {c : Channel} {i : Instr} {rest : List Channel}
    (h : pickFrom s cs = some (c, i, rest)) :
    acceptable s c = some i ∧ ∃ pre, cs = pre ++ c :: rest ∧ ∀ d ∈ pre, acceptable s d = none := by
  induction cs with
  | nil => cases h
  | cons d ds ih =>
    unfold pickFrom at h
    split at h
    · rename_i j hj
      cases h
      exact ⟨hj, [], rfl, by simp⟩
    · rename_i hn
      obtain ⟨ha, pre, hpre, hall⟩ := ih h
      exact ⟨ha, d :: pre, by rw [hpre]; rfl, by simpa [hn] using hall⟩

/-- No channel is picked exactly when none of the list can be served. -/
theorem pickFrom_none {s : State} {cs : List Channel} : pickFrom s cs = none ↔ ∀ c ∈ cs, acceptable s c = none := by
  induction cs with
  | nil => simp [pickFrom]
  | cons d ds ih =>
    unfold pickFrom
    cases h : acceptable s d <;> simp [h, ih]

theorem mem_allChannels (c : Channel) : c ∈ allChannels := by cases c <;> decide

/-- What comes next: the operation pending on one channel that can be served, with only its transfer taken. -/
theorem nextOperation_some {s s1 : State} {i : Instr} (h : nextOperation s = some (i, s1)) :
    ∃ c rest, acceptable s c = some i ∧ s1 = takeOffer c rest s := by
  unfold nextOperation at h
  split at h
  · rename_i c j rest hp
    cases h
    exact ⟨c, rest, (pickFrom_some hp).1, rfl⟩
  · split at h
    · rename_i c j rest hp
      cases h
      exact ⟨c, [], (pickFrom_some hp).1, rfl⟩
    · cases h

/-- Nothing comes next exactly when nothing offered is acceptable (60_exceptions.md R243). -/
theorem nextOperation_none {s : State} : nextOperation s = none ↔ ∀ c, acceptable s c = none := by
  constructor
  · intro h c
    unfold nextOperation at h
    split at h
    · cases h
    · split at h
      · cases h
      · rename_i hp
        exact pickFrom_none.1 hp c (mem_allChannels c)
  · intro h
    have hp : ∀ cs, pickFrom s cs = none := fun cs => pickFrom_none.2 fun c _ => h c
    simp [nextOperation, hp]

/-- Accepting a transfer on one channel leaves what the others offer. -/
theorem pop_head_other (o : Offers) {c d : Channel} (h : d ≠ c) : (o.pop c).head d = o.head d := by
  cases c <;> cases d <;> first | rfl | exact absurd rfl h

/-- What a step can do: the operation pending on one channel that can be served runs, with only its transfer taken. -/
theorem step_cases {s t : State} (h : step s = .next t) :
    ∃ c rest i, acceptable s c = some i ∧ exec i (takeOffer c rest s) = .next t := by
  unfold step at h
  split at h
  · cases h
  · rename_i i s1 hn
    obtain ⟨c, rest, ha, rfl⟩ := nextOperation_some hn
    exact ⟨c, rest, i, ha, h⟩

/-! ### The configuration -/

/-- What a usable configuration is (45_session_control.md R206). -/
theorem cfgCheck_zero {s : State} :
    cfgCheck s = 0#8 ↔ s.B ≠ 0#8 ∧ s.W ≠ 0#32 ∧ s.H ≠ 0#32 ∧ s.W.toNat % s.B.toNat = 0 ∧
      s.H.toNat % s.B.toNat = 0 ∧ s.N ≤ s.maxPix.toNat := by
  unfold cfgCheck
  split
  · simp [*]
  split
  · rename_i h1 h2
    rcases h2 with h2 | h2 <;> simp [h2]
  rename_i h1 h2
  have h2' : s.W ≠ 0#32 ∧ s.H ≠ 0#32 := by simpa [not_or] using h2
  split
  · rename_i h3; simp [h3]
  rename_i h3
  split
  · rename_i h4; simp [h4]
  rename_i h4
  split
  · rename_i h5
    have : ¬ s.N ≤ s.maxPix.toNat := by omega
    simp [this]
  · rename_i h5
    have : s.N ≤ s.maxPix.toNat := by omega
    simp_all

/-- In a usable configuration there is at least one pixel, fewer than 2^32, and at least one cell. -/
theorem cfgCheck_bounds {s : State} (h : cfgCheck s = 0#8) : 0 < s.N ∧ s.N < 2 ^ 32 ∧ 0 < s.NC ∧ s.NC ≤ s.N := by
  obtain ⟨hB, hW, hH, hWB, hHB, hN⟩ := cfgCheck_zero.1 h
  have hB' : 0 < s.B.toNat := Nat.pos_of_ne_zero fun e => hB (BitVec.eq_of_toNat_eq (by simpa using e))
  have hW' : 0 < s.W.toNat := Nat.pos_of_ne_zero fun e => hW (BitVec.eq_of_toNat_eq (by simpa using e))
  have hH' : 0 < s.H.toNat := Nat.pos_of_ne_zero fun e => hH (BitVec.eq_of_toNat_eq (by simpa using e))
  have hw : 0 < s.W.toNat / s.B.toNat := Nat.div_pos (Nat.le_of_dvd hW' (Nat.dvd_of_mod_eq_zero hWB)) hB'
  have hh : 0 < s.H.toNat / s.B.toNat := Nat.div_pos (Nat.le_of_dvd hH' (Nat.dvd_of_mod_eq_zero hHB)) hB'
  refine ⟨Nat.mul_pos hW' hH', ?_, Nat.mul_pos hw hh, ?_⟩
  · have := s.maxPix.isLt; omega
  · exact Nat.mul_le_mul (Nat.div_le_self _ _) (Nat.div_le_self _ _)

/-- A copy with the same W, H, B and MAXPIX has the same check, N, NC and cells. -/
theorem cfgCheck_congr {s t : State} (hW : t.W = s.W) (hH : t.H = s.H) (hB : t.B = s.B) (hM : t.maxPix = s.maxPix) :
    cfgCheck t = cfgCheck s := by
  unfold cfgCheck State.N
  rw [hW, hH, hB, hM]

theorem N_congr {s t : State} (hW : t.W = s.W) (hH : t.H = s.H) : t.N = s.N := by
  unfold State.N
  rw [hW, hH]

theorem NC_congr {s t : State} (hW : t.W = s.W) (hH : t.H = s.H) (hB : t.B = s.B) : t.NC = s.NC := by
  unfold State.NC
  rw [hW, hH, hB]

theorem cellOf_congr {s t : State} (hW : t.W = s.W) (hB : t.B = s.B) (i : Nat) : cellOf t i = cellOf s i := by
  unfold cellOf
  rw [hW, hB]

/-! ### Accumulators -/

/-- The cell that is bumped (40_accumulator.md R103). -/
theorem accRead_accBump_same {s : State} (h : s.acc.wf accZero = true) (i : Nat) (inc : Bool) :
    accRead (accBump i inc s) i = bump (accRead s i) inc := Memory.read_write_same _ h _ _

/-- No other cell changes (40_accumulator.md R103). -/
theorem accRead_accBump_other (s : State) {i j : Nat} (h : j ≠ i) (inc : Bool) :
    accRead (accBump i inc s) j = accRead s j := Memory.read_write_other _ _ h _

/-- `acc_bump` keeps the form of the bank. -/
theorem accBump_wf {s : State} (h : s.acc.wf accZero = true) (i : Nat) (inc : Bool) :
    (accBump i inc s).acc.wf accZero = true := Memory.write_wf _ h _ _

/-- The bump as arithmetic on naturals (40_accumulator.md R101). -/
theorem bump_toNat (a : BitVec 4) (inc : Bool) :
    (bump a inc).toNat = if inc then min (a.toNat + 1) 15 else a.toNat - 1 := by
  have := a.isLt
  cases inc
  · simp [bump]
    omega
  · simp [bump]

/-! ### The run in progress -/

/-- What `rle_push` does (42_rle.md R131): it changes only OUT and the run, in one of three ways, and emits at once a
run that has reached 127. -/
theorem rlePush_cases (bit : Bool) (s : State) :
    ∃ t, rlePush bit s = (if t.runLen.toNat = 127 then rleEmit t else t) ∧
      ((s.runLen = 0#7 ∧ t = { s with runFlag := bit, runLen := 1#7 }) ∨
       (s.runLen ≠ 0#7 ∧ bit = s.runFlag ∧ t = { s with runLen := s.runLen + 1#7 }) ∨
       (s.runLen ≠ 0#7 ∧ bit ≠ s.runFlag ∧
          t = { s with out := s.out ++ [rleByte s.runFlag s.runLen], runFlag := bit, runLen := 1#7 })) := by
  refine ⟨extendRun bit s, rfl, ?_⟩
  unfold extendRun
  split
  · exact .inl ⟨‹_›, rfl⟩
  · split
    · exact .inr (.inl ⟨‹_›, ‹_›, rfl⟩)
    · exact .inr (.inr ⟨‹_›, ‹_›, rfl⟩)

/-- `rle_push` changes OUT, the run's flag and its length, and nothing else. -/
theorem rlePush_frame (bit : Bool) (s : State) :
    ∃ o f l, rlePush bit s = { s with out := o, runFlag := f, runLen := l } ∧ s.out <+: o := by
  obtain ⟨t, ht, h⟩ := rlePush_cases bit s
  rw [ht]
  rcases h with ⟨_, rfl⟩ | ⟨_, _, rfl⟩ | ⟨_, _, rfl⟩ <;> dsimp only <;> split
  · exact ⟨_, _, _, rfl, List.prefix_append _ _⟩
  · exact ⟨_, _, _, rfl, List.prefix_refl _⟩
  · exact ⟨_, _, _, rfl, List.prefix_append _ _⟩
  · exact ⟨_, _, _, rfl, List.prefix_refl _⟩
  · exact ⟨_, _, _, rfl, (List.prefix_append _ _).trans (List.prefix_append _ _)⟩
  · exact ⟨_, _, _, rfl, List.prefix_append _ _⟩

/-- Between pushes the run is shorter than 127 (42_rle.md R131). -/
theorem rlePush_runBound (bit : Bool) (s : State) : (rlePush bit s).runLen.toNat ≤ 126 := by
  obtain ⟨t, ht, hc⟩ := rlePush_cases bit s
  rw [ht]
  have hb : t.runLen.toNat ≤ 127 := by
    rcases hc with ⟨_, rfl⟩ | ⟨_, _, rfl⟩ | ⟨_, _, rfl⟩
    · simp
    · have : (1#7).toNat = 1 := rfl
      simp only [BitVec.toNat_add, this]
      omega
    · simp
  split
  · simp
  · omega

/-- `rle_flush` closes the run and changes only OUT and the run (42_rle.md R133). -/
theorem rleFlush_frame (s : State) :
    (rleFlush s).runLen = 0#7 ∧ ∃ o, rleFlush s = { s with out := o, runLen := 0#7 } ∧ s.out <+: o := by
  unfold rleFlush
  split
  · rename_i h
    refine ⟨h, s.out, ?_, List.prefix_refl _⟩
    cases s
    simp_all
  · exact ⟨rfl, _, rfl, List.prefix_append _ _⟩

/-! ### Ends of frames and of the header -/

/-- What happens after a pixel of an encode session: the frame goes on, or it was the last pixel. -/
theorem endFrameEnc_cases (s : State) :
    (s.p.toNat ≠ s.N ∧ endFrameEnc s = s) ∨
    (s.p.toNat = s.N ∧ ∃ o, s.out <+: o ∧ endFrameEnc s =
      { s with out := o, runLen := 0#7, p := 0#32, frame := s.frame + 1#32, phase := .eFrame }) := by
  unfold endFrameEnc
  split
  · obtain ⟨_, o, ho, hp⟩ := rleFlush_frame s
    refine .inr ⟨‹_›, o, hp, ?_⟩
    rw [ho]
    rfl
  · exact .inl ⟨‹_›, rfl⟩

/-- What happens after a run byte of a decode session: the frame goes on, or it is complete. -/
theorem endFrameDec_cases (s : State) :
    (s.p.toNat ≠ s.N ∧ endFrameDec s = s) ∨
    (s.p.toNat = s.N ∧ endFrameDec s = { s with p := 0#32, frame := s.frame + 1#32, phase := .dCont }) := by
  unfold endFrameDec
  split
  · exact .inr ⟨‹_›, rfl⟩
  · exact .inl ⟨‹_›, rfl⟩

/-- What a pixel of an encode session changes: its accumulator, the cursor, OUT and the run; on the last pixel the
frame counter and the phase (41_delta.md R115). -/
theorem encodePixel_frame (c : Rgb) (s : State) :
    ∃ o f l, s.out <+: o ∧
      let u : State := { s with
        acc := s.acc.write accZero s.p.toNat (bump (accRead s s.p.toNat) (deltaBit s c))
        out := o, runFlag := f, runLen := l, p := s.p + 1#32 }
      ((u.p.toNat ≠ u.N ∧ encodePixel c s = u) ∨
       (u.p.toNat = u.N ∧ encodePixel c s =
          { u with runLen := 0#7, p := 0#32, frame := s.frame + 1#32, phase := .eFrame })) := by
  obtain ⟨o, f, l, h, hp⟩ := rlePush_frame (deltaBit s c) (accBump s.p.toNat (deltaBit s c) s)
  have he : encodePixel c s =
      endFrameEnc (advanceP (rlePush (deltaBit s c) (accBump s.p.toNat (deltaBit s c) s))) := rfl
  rw [h] at he
  rcases endFrameEnc_cases (advanceP { accBump s.p.toNat (deltaBit s c) s with out := o, runFlag := f, runLen := l })
    with ⟨h1, h2⟩ | ⟨h1, o', ho', h2⟩
  · exact ⟨o, f, l, hp, .inl ⟨h1, he.trans h2⟩⟩
  · exact ⟨o', f, l, hp.trans ho', .inr ⟨h1, he.trans h2⟩⟩

/-- What a run of decoded pixels changes: the accumulators, the cursor and LUMOUT (41_delta.md R118). -/
theorem decPixels_frame (n : Nat) (bit : Bool) (s : State) :
    ∃ A L, s.lumout <+: L ∧ decPixels n bit s =
      { s with acc := A, lumout := L, p := s.p + BitVec.ofNat 32 n } := by
  induction n generalizing s with
  | zero => exact ⟨s.acc, s.lumout, List.prefix_refl _, by simp [decPixels]⟩
  | succ n ih =>
    obtain ⟨A, L, hp, h⟩ := ih (decPixel bit s)
    refine ⟨A, L, (List.prefix_append _ _).trans hp, ?_⟩
    rw [decPixels, h]
    simp only [decPixel, advanceP, emitLum, accBump]
    have : s.p + 1#32 + BitVec.ofNat 32 n = s.p + BitVec.ofNat 32 (n + 1) := by
      apply BitVec.eq_of_toNat_eq
      simp only [BitVec.toNat_add, BitVec.toNat_ofNat]
      omega
    rw [this]

/-- Decoded pixels keep the form of the bank. -/
theorem decPixels_wf (n : Nat) (bit : Bool) (s : State) (h : s.acc.wf accZero = true) :
    (decPixels n bit s).acc.wf accZero = true := by
  induction n generalizing s with
  | zero => exact h
  | succ n ih => exact ih _ (accBump_wf (s := s) h _ _)

/-- What the reader does after a header byte (44_container_reader.md R173): it goes on, the header is refused, or the
session waits for a chunk with a cleared bank. -/
theorem advanceHeader_cases (s : State) :
    (s.sub + 1#32 ≠ 14#32 ∧ advanceHeader s = { s with sub := s.sub + 1#32 }) ∨
    (s.sub + 1#32 = 14#32 ∧ cfgCheck s ≠ 0#8 ∧
      advanceHeader s = raise .configError (cfgCheck s) 0#8 { s with sub := 14#32 }) ∨
    (s.sub + 1#32 = 14#32 ∧ cfgCheck s = 0#8 ∧
      advanceHeader s = { s with acc := s.acc.clearBelow s.N, sub := 0#32, phase := .dCont }) := by
  unfold advanceHeader endHeader
  dsimp only
  split
  · rename_i h
    have hc : cfgCheck { s with sub := s.sub + 1#32 } = cfgCheck s := cfgCheck_congr rfl rfl rfl rfl
    rw [hc]
    split
    · exact .inr (.inr ⟨h, ‹_›, rfl⟩)
    · exact .inr (.inl ⟨h, ‹_›, by rw [h]⟩)
  · exact .inl ⟨‹_›, rfl⟩

/-- What a header byte does (44_container_reader.md R173): the magic is wrong, or the reader goes on with W, H or FPS
filled. -/
theorem rxHeader_cases (b : Byte) (s : State) :
    (s.sub.toNat < 4 ∧ b ≠ magicByte s.sub.toNat ∧ rxHeader b s = raise .badMagic (s.sub.setWidth 8) b s) ∨
    (s.sub.toNat < 4 ∧ b = magicByte s.sub.toNat ∧ rxHeader b s = advanceHeader s) ∨
    (4 ≤ s.sub.toNat ∧ s.sub.toNat < 8 ∧
      rxHeader b s = advanceHeader { s with W := putByte s.W (s.sub.toNat - 4) b }) ∨
    (8 ≤ s.sub.toNat ∧ s.sub.toNat < 12 ∧
      rxHeader b s = advanceHeader { s with H := putByte s.H (s.sub.toNat - 8) b }) ∨
    (12 ≤ s.sub.toNat ∧ rxHeader b s = advanceHeader { s with FPS := putByte s.FPS (s.sub.toNat - 12) b }) := by
  unfold rxHeader
  dsimp only
  split
  · split
    · exact .inr (.inl ⟨‹_›, ‹_›, rfl⟩)
    · exact .inl ⟨‹_›, ‹_›, rfl⟩
  · split
    · exact .inr (.inr (.inl ⟨by omega, ‹_›, rfl⟩))
    · split
      · exact .inr (.inr (.inr (.inl ⟨by omega, ‹_›, rfl⟩)))
      · exact .inr (.inr (.inr (.inr ⟨by omega, rfl⟩)))

/-- What a run byte does (42_rle.md R137): one of its two errors, or all of its pixels. -/
theorem rxRun_cases {b : Byte} {s t : State} (h : rxRun b s = .next t) :
    ((rleLength b).toNat = 0 ∧ t = raise .rleZeroLength 0#8 b s) ∨
    ((rleLength b).toNat ≠ 0 ∧ s.N - s.p.toNat < (rleLength b).toNat ∧ t = raise .rleOverrun 0#8 b s) ∨
    ((rleLength b).toNat ≠ 0 ∧ cellsExist s (rleLength b).toNat = true ∧
      t = endFrameDec (decPixels (rleLength b).toNat (rleFlag b) s)) := by
  unfold rxRun at h
  dsimp only at h
  split at h
  · exact .inl ⟨‹_›, by simpa [eq_comm] using h⟩
  · split at h
    · exact .inr (.inl ⟨‹_›, ‹_›, by simpa [eq_comm] using h⟩)
    · obtain ⟨hc, h⟩ := withCells_next.1 h
      exact .inr (.inr ⟨‹_›, hc, by simpa [eq_comm] using h⟩)

/-- What a grid cell does (41_delta.md R113): the next cell is awaited, or the pixel phase begins. -/
theorem loadCell_cases (c : Rgb) (s : State) :
    ((s.sub + 1#32).toNat ≠ s.NC ∧
      loadCell c s = { s with grid := s.grid.write gridZero s.sub.toNat c, sub := s.sub + 1#32 }) ∨
    ((s.sub + 1#32).toNat = s.NC ∧
      loadCell c s = { s with
        grid := s.grid.write gridZero s.sub.toNat c, sub := 0#32, p := 0#32,
        phase := if s.mode = .enc then .ePix else .dRle }) := by
  unfold loadCell
  dsimp only
  split
  · exact .inr ⟨‹_›, rfl⟩
  · exact .inl ⟨‹_›, rfl⟩

/-- What a key-size byte does (44_container_reader.md R176). -/
theorem rxKsize_cases (b : Byte) (s : State) :
    let k := putByte s.keysize s.sub.toNat b
    (s.sub + 1#32 ≠ 4#32 ∧ rxKsize b s = { s with keysize := k, sub := s.sub + 1#32 }) ∨
    (s.sub + 1#32 = 4#32 ∧ rxKsize b s = { s with
      keysize := k, keyout := s.keyout ++ [.begin k], sub := 0#32,
      phase := if k = 0#32 then .dGrid else .dKey }) := by
  dsimp only
  unfold rxKsize
  dsimp only
  split
  · exact .inr ⟨‹_›, rfl⟩
  · exact .inl ⟨‹_›, rfl⟩

/-- What a key byte of a decode session does (44_container_reader.md R177). -/
theorem rxKey_cases (b : Byte) (s : State) :
    (s.sub + 1#32 ≠ s.keysize ∧ rxKey b s = { s with keyout := s.keyout ++ [.byte b], sub := s.sub + 1#32 }) ∨
    (s.sub + 1#32 = s.keysize ∧
      rxKey b s = { s with keyout := s.keyout ++ [.byte b], sub := 0#32, phase := .dGrid }) := by
  unfold rxKey
  dsimp only
  split
  · exact .inr ⟨‹_›, rfl⟩
  · exact .inl ⟨‹_›, rfl⟩

/-- What a key byte of an encode session does (43_container_writer.md R154). -/
theorem passKeyByte_cases (b : Byte) (s : State) :
    (s.sub + 1#32 ≠ s.keysize ∧ passKeyByte b s = { s with out := s.out ++ [b], sub := s.sub + 1#32 }) ∨
    (s.sub + 1#32 = s.keysize ∧
      passKeyByte b s = { s with out := s.out ++ [b], sub := 0#32, phase := .eGrid }) := by
  unfold passKeyByte
  dsimp only
  split
  · exact .inr ⟨‹_›, rfl⟩
  · exact .inl ⟨‹_›, rfl⟩

/-- What CFG.WR's register write does (45_session_control.md R201): one of the four configuration registers, or nothing
for a number that names none. -/
theorem writeCR_cases (n : Nat) (v : Word) (s : State) :
    (n = 0 ∧ writeCR n v s = { s with W := v }) ∨ (n = 1 ∧ writeCR n v s = { s with H := v }) ∨
    (n = 2 ∧ writeCR n v s = { s with FPS := v.setWidth 16 }) ∨
    (n = 3 ∧ writeCR n v s = { s with B := v.setWidth 8 }) ∨ (3 < n ∧ writeCR n v s = s) := by
  unfold writeCR
  split
  · exact .inl ⟨rfl, rfl⟩
  · exact .inr (.inl ⟨rfl, rfl⟩)
  · exact .inr (.inr (.inl ⟨rfl, rfl⟩))
  · exact .inr (.inr (.inr (.inl ⟨rfl, rfl⟩)))
  · rename_i h0 h1 h2 h3
    have : 3 < n := by
      rcases n with _ | _ | _ | _ | n <;> first | omega | simp_all
    exact .inr (.inr (.inr (.inr ⟨this, rfl⟩)))

/-- What opening an encode session changes (43_container_writer.md R150). -/
theorem openEnc_eq (s : State) : openEnc s = { s with
    acc := s.acc.clearBelow s.N, out := s.out ++ headerBytes s.W s.H s.FPS,
    mode := .enc, phase := .eFrame, frame := 0#32, p := 0#32, sub := 0#32 } := rfl

/-- What a continuation byte does (44_container_reader.md R174). -/
theorem rxCont_cases (b : Byte) (s : State) :
    (b = 0x00#8 ∧ rxCont b s = { s with phase := .dType }) ∨
    (b = 0x01#8 ∧ rxCont b s = { s with mode := .done, phase := .pNone }) ∨
    (b ≠ 0x00#8 ∧ b ≠ 0x01#8 ∧ rxCont b s = raise .badContinuation 0#8 b s) := by
  unfold rxCont
  split
  · exact .inl ⟨‹_›, rfl⟩
  · split
    · exact .inr (.inl ⟨‹_›, rfl⟩)
    · exact .inr (.inr ⟨‹_›, ‹_›, rfl⟩)

/-- What a type byte does (44_container_reader.md R175). -/
theorem rxType_cases (b : Byte) (s : State) :
    (b = 0x00#8 ∧ rxType b s = { s with phase := .dKsize, sub := 0#32, keysize := 0#32 }) ∨
    (b ≠ 0x00#8 ∧ rxType b s = raise .unsupportedChunk 0#8 b s) := by
  unfold rxType
  split
  · exact .inl ⟨‹_›, rfl⟩
  · exact .inr ⟨‹_›, rfl⟩

/-- What a container byte does in the phases of a decode session in which RX is read (44_container_reader.md R172). -/
theorem rxByPhase_cases {b : Byte} {s t : State} (h : rxByPhase b s = .next t) :
    (s.phase = .dHdr ∧ t = rxHeader b s) ∨ (s.phase = .dCont ∧ t = rxCont b s) ∨
    (s.phase = .dType ∧ t = rxType b s) ∨ (s.phase = .dKsize ∧ t = rxKsize b s) ∨
    (s.phase = .dKey ∧ t = rxKey b s) ∨ (s.phase = .dRle ∧ rxRun b s = .next t) := by
  unfold rxByPhase at h
  cases hp : s.phase <;> rw [hp] at h <;> simp_all

/-- Nothing but a false guard is behind a refusal of a run byte: it has a next state or a fault. -/
theorem rxRun_not_refused (b : Byte) (s : State) (q : Refusal) : rxRun b s ≠ .refused q := by
  unfold rxRun withCells
  dsimp only
  split_ifs <;> simp

end Sys2Proof.Machine
end

