-- ==== Sys2Proof/Laws/PerInstr.lean ====
section
/-! SUPPORT. One law per instruction: its encoding is a transfer on the channel the operation tables of
spec/30_encoding.md give it (R70, R74 to R76, R80). -/

namespace Sys2Proof

/-- The channel of an operation (30_encoding.md R70, R74, R75, R76; a wire token is a byte on RX, R80). -/
def Instr.channel : Instr → Channel
  | .cfgWr _ _ => .cmd
  | .cfgRd _ => .cmd
  | .accRd _ => .cmd
  | .startEnc => .cmd
  | .startDec => .cmd
  | .frameBegin _ => .cmd
  | .endEnc => .cmd
  | .reset => .cmd
  | .keyByte _ => .keyin
  | .gridLd _ => .gridin
  | .pixEnc _ => .pixin
  | .rxByte _ => .rx
  | .rxEos => .rx
  | .sigErr _ => .errin
  | .wireMagic0 => .rx
  | .wireMagic1 => .rx
  | .wireMagic2 => .rx
  | .wireMagic3 => .rx
  | .wireWidth _ => .rx
  | .wireHeight _ => .rx
  | .wireFps _ => .rx
  | .wireContChunk => .rx
  | .wireContEnd => .rx
  | .wireTypeVideo => .rx
  | .wireKsize _ => .rx
  | .wireKey _ => .rx
  | .wireRleRun0 _ => .rx
  | .wireRleRun1 _ => .rx

/-- The encoded transfer of `i` is on the channel of `i`. -/
def Laws.EncodeChannel.Statement (i : Instr) : Prop := (encode i).channel = i.channel

theorem Laws.EncodeChannel.cfgWr (n : Byte) (v : Word) : Laws.EncodeChannel.Statement (.cfgWr n v) := rfl

theorem Laws.EncodeChannel.cfgRd (n : Byte) : Laws.EncodeChannel.Statement (.cfgRd n) := rfl

theorem Laws.EncodeChannel.accRd (k : Word) : Laws.EncodeChannel.Statement (.accRd k) := rfl

theorem Laws.EncodeChannel.startEnc : Laws.EncodeChannel.Statement .startEnc := rfl

theorem Laws.EncodeChannel.startDec : Laws.EncodeChannel.Statement .startDec := rfl

theorem Laws.EncodeChannel.frameBegin (k : Word) : Laws.EncodeChannel.Statement (.frameBegin k) := rfl

theorem Laws.EncodeChannel.endEnc : Laws.EncodeChannel.Statement .endEnc := rfl

theorem Laws.EncodeChannel.reset : Laws.EncodeChannel.Statement .reset := rfl

theorem Laws.EncodeChannel.keyByte (b : Byte) : Laws.EncodeChannel.Statement (.keyByte b) := rfl

theorem Laws.EncodeChannel.gridLd (c : Rgb) : Laws.EncodeChannel.Statement (.gridLd c) := rfl

theorem Laws.EncodeChannel.pixEnc (c : Rgb) : Laws.EncodeChannel.Statement (.pixEnc c) := rfl

theorem Laws.EncodeChannel.rxByte (b : Byte) : Laws.EncodeChannel.Statement (.rxByte b) := rfl

theorem Laws.EncodeChannel.rxEos : Laws.EncodeChannel.Statement .rxEos := rfl

theorem Laws.EncodeChannel.sigErr (k : BitVec 2) : Laws.EncodeChannel.Statement (.sigErr k) := rfl

theorem Laws.EncodeChannel.wireMagic0 : Laws.EncodeChannel.Statement .wireMagic0 := rfl

theorem Laws.EncodeChannel.wireMagic1 : Laws.EncodeChannel.Statement .wireMagic1 := rfl

theorem Laws.EncodeChannel.wireMagic2 : Laws.EncodeChannel.Statement .wireMagic2 := rfl

theorem Laws.EncodeChannel.wireMagic3 : Laws.EncodeChannel.Statement .wireMagic3 := rfl

theorem Laws.EncodeChannel.wireWidth (v : Byte) : Laws.EncodeChannel.Statement (.wireWidth v) := rfl

theorem Laws.EncodeChannel.wireHeight (v : Byte) : Laws.EncodeChannel.Statement (.wireHeight v) := rfl

theorem Laws.EncodeChannel.wireFps (v : Byte) : Laws.EncodeChannel.Statement (.wireFps v) := rfl

theorem Laws.EncodeChannel.wireContChunk : Laws.EncodeChannel.Statement .wireContChunk := rfl

theorem Laws.EncodeChannel.wireContEnd : Laws.EncodeChannel.Statement .wireContEnd := rfl

theorem Laws.EncodeChannel.wireTypeVideo : Laws.EncodeChannel.Statement .wireTypeVideo := rfl

theorem Laws.EncodeChannel.wireKsize (v : Byte) : Laws.EncodeChannel.Statement (.wireKsize v) := rfl

theorem Laws.EncodeChannel.wireKey (b : Byte) : Laws.EncodeChannel.Statement (.wireKey b) := rfl

theorem Laws.EncodeChannel.wireRleRun0 (len : BitVec 7) : Laws.EncodeChannel.Statement (.wireRleRun0 len) := rfl

theorem Laws.EncodeChannel.wireRleRun1 (len : BitVec 7) : Laws.EncodeChannel.Statement (.wireRleRun1 len) := rfl

end Sys2Proof
end

