-- ==== Sys2Proof/Tests/Slice0.lean ====
section
/-! SUPPORT. Tests: the WellFormed smoke, the words of spec/30_encoding.md decoded, single steps with expected values
from the spec, and for each statement with hypotheses a state and operands that meet them (test_witness_…). -/

namespace Sys2Proof.Machine

/-! ### WellFormed refuses an ill-formed term for each of its checks (30_encoding.md R73, R76) -/

theorem test_cfgWr_register_4_is_ill_formed : (Instr.cfgWr 4#8 1#32).wellFormed = false := by decide
theorem test_cfgRd_register_10_is_ill_formed : (Instr.cfgRd 10#8).wellFormed = false := by decide
theorem test_sigErr_kind_3_is_ill_formed : (Instr.sigErr 3#2).wellFormed = false := by decide

/-! ### One word of each row, written from the encodings of 30_encoding.md -/

/-- op 0x01, sel 0, arg 16 (R90). -/
theorem test_decode_cfgWr : decode .pNone 0#32 (.cmd 0x010000000010#48) = .ok (.cfgWr 0#8 16#32) := by decide
/-- op 0x02, sel 9 (R90). -/
theorem test_decode_cfgRd : decode .pNone 0#32 (.cmd 0x020900000000#48) = .ok (.cfgRd 9#8) := by decide
theorem test_decode_accRd : decode .pNone 0#32 (.cmd 0x030000000007#48) = .ok (.accRd 7#32) := by decide
theorem test_decode_startEnc : decode .pNone 0#32 (.cmd 0x100000000000#48) = .ok .startEnc := by decide
theorem test_decode_startDec : decode .pNone 0#32 (.cmd 0x110000000000#48) = .ok .startDec := by decide
/-- op 0x12, arg 2 (R90). -/
theorem test_decode_frameBegin : decode .eFrame 0#32 (.cmd 0x120000000002#48) = .ok (.frameBegin 2#32) := by decide
theorem test_decode_endEnc : decode .eFrame 0#32 (.cmd 0x130000000000#48) = .ok .endEnc := by decide
theorem test_decode_reset : decode .dRle 0#32 (.cmd 0x1F0000000000#48) = .ok .reset := by decide
theorem test_decode_keyByte : decode .eKey 0#32 (.keyin 0xAB#8) = .ok (.keyByte 0xAB#8) := by decide
/-- GRID.LD 200, 190, 180: R in bits 7:0 (R75). -/
theorem test_decode_gridLd :
    decode .eGrid 0#32 (.gridin 0xB4BEC8#24) = .ok (.gridLd ⟨200#8, 190#8, 180#8⟩) := by decide
/-- PIX.ENC 90, 100, 110 (R75). -/
theorem test_decode_pixEnc : decode .ePix 0#32 (.pixin 0x6E645A#24) = .ok (.pixEnc ⟨90#8, 100#8, 110#8⟩) := by decide
/-- 0x02 is no continuation byte: it stays RX.BYTE (R83). -/
theorem test_decode_rxByte : decode .dCont 0#32 (.rx 0x002#9) = .ok (.rxByte 2#8) := by decide
theorem test_decode_rxEos : decode .dCont 0#32 (.rx 0x100#9) = .ok .rxEos := by decide
theorem test_decode_sigErr : decode .eKey 0#32 (.errin 2#2) = .ok (.sigErr 2#2) := by decide
theorem test_decode_wireMagic0 : decode .dHdr 0#32 (.rx 0x061#9) = .ok .wireMagic0 := by decide
theorem test_decode_wireMagic1 : decode .dHdr 1#32 (.rx 0x06B#9) = .ok .wireMagic1 := by decide
theorem test_decode_wireMagic2 : decode .dHdr 2#32 (.rx 0x02D#9) = .ok .wireMagic2 := by decide
theorem test_decode_wireMagic3 : decode .dHdr 3#32 (.rx 0x063#9) = .ok .wireMagic3 := by decide
theorem test_decode_wireWidth : decode .dHdr 7#32 (.rx 0x004#9) = .ok (.wireWidth 4#8) := by decide
theorem test_decode_wireHeight : decode .dHdr 8#32 (.rx 0x002#9) = .ok (.wireHeight 2#8) := by decide
theorem test_decode_wireFps : decode .dHdr 13#32 (.rx 0x01E#9) = .ok (.wireFps 30#8) := by decide
theorem test_decode_wireContChunk : decode .dCont 0#32 (.rx 0x000#9) = .ok .wireContChunk := by decide
theorem test_decode_wireContEnd : decode .dCont 0#32 (.rx 0x001#9) = .ok .wireContEnd := by decide
theorem test_decode_wireTypeVideo : decode .dType 0#32 (.rx 0x000#9) = .ok .wireTypeVideo := by decide
theorem test_decode_wireKsize : decode .dKsize 3#32 (.rx 0x0AA#9) = .ok (.wireKsize 0xAA#8) := by decide
theorem test_decode_wireKey : decode .dKey 5#32 (.rx 0x0AA#9) = .ok (.wireKey 0xAA#8) := by decide
theorem test_decode_wireRleRun0 : decode .dRle 0#32 (.rx 0x005#9) = .ok (.wireRleRun0 5#7) := by decide
/-- 0x83 is flag 1, length 3 (R87). -/
theorem test_decode_wireRleRun1 : decode .dRle 0#32 (.rx 0x083#9) = .ok (.wireRleRun1 3#7) := by decide

/-- A command word whose op is reserved (R73). -/
theorem test_decode_reserved : decode .pNone 0#32 (.cmd 0x040000000000#48) = .rejected .reservedOp := by decide
theorem test_table_cmd : decodeTableWord 48 0x120000000002 = some (.frameBegin 2#32) := by decide
theorem test_table_wire : decodeTableWord 8 0x83 = some (.wireRleRun1 3#7) := by decide

/-! ### The small machine of 95_test_vectors.md section 5: W = 4, H = 2, B = 2, so N = 8 and NC = 2 -/

/-- The small machine in a mode and a phase, at `sub` and pixel `p`. -/
def small (m : Mode) (ph : Phase) (sub p : Word) : State :=
  { State.reset with W := 4#32, H := 2#32, FPS := 30#16, B := 2#8, mode := m, phase := ph, sub := sub, p := p }

/-- The state an operation leads to. -/
def after (r : Result) : Option State :=
  match r with
  | .next s => some s
  | .fault _ => none
  | .refused _ => none

/-! ### Single steps, with values of 95_test_vectors.md -/

/-- R201: a 16-bit register keeps the low bits of the value. -/
theorem test_cfgWr_keeps_low_bits :
    (after (exec (.cfgWr 2#8 0x1ABCD#32) (small .idle .pNone 0#32 0#32))).map State.FPS = some 0xABCD#16 := by decide
/-- Section 7: CFG.WR in ENC is held. -/
theorem test_cfgWr_held : after (exec (.cfgWr 0#8 1#32) (small .enc .eFrame 0#32 0#32)) = none := by decide
/-- R26: E_PIX in ENC reads 0x41. -/
theorem test_cfgRd_status :
    (after (exec (.cfgRd 4#8) (small .enc .ePix 0#32 0#32))).map State.rsp = some [0x41#32] := by decide
theorem test_accRd_reads :
    (after (exec (.accRd 7#32) { small .enc .ePix 0#32 0#32 with acc := [(7, 9#4)] })).map State.rsp =
      some [9#32] := by decide
/-- Section 7: ACC.RD 8 with N = 8 is held. -/
theorem test_accRd_held : after (exec (.accRd 8#32) (small .enc .ePix 0#32 0#32)) = none := by decide
/-- Section 7: the header bytes of (4, 2, 30). -/
theorem test_startEnc_header :
    (after (exec .startEnc (small .idle .pNone 0#32 0#32))).map State.out =
      some [0x61#8, 0x6B#8, 0x2D#8, 0x63#8, 4#8, 0#8, 0#8, 0#8, 2#8, 0#8, 0#8, 0#8, 0x1E#8, 0#8] := by decide
/-- Section 7: W = 5 fails the check with sub-cause 3. -/
theorem test_startEnc_configError :
    (after (exec .startEnc { small .idle .pNone 0#32 0#32 with W := 5#32 })).map
      (fun s => (s.errinfo, s.status, s.out)) = some (0x0003#16, 0x0C#8, []) := by decide
theorem test_startDec_clears_width :
    (after (exec .startDec (small .idle .pNone 0#32 0#32))).map (fun s => (s.W, s.B, s.phase)) =
      some (0#32, 2#8, .dHdr) := by decide
/-- Section 7: FRAME.BEGIN 0x00012345. -/
theorem test_frameBegin_bytes :
    (after (exec (.frameBegin 0x00012345#32) (small .enc .eFrame 0#32 0#32))).map State.out =
      some [0#8, 0#8, 0x45#8, 0x23#8, 1#8, 0#8] := by decide
theorem test_frameBegin_empty_key :
    (after (exec (.frameBegin 0#32) (small .enc .eFrame 0#32 0#32))).map State.phase = some .eGrid := by decide
theorem test_endEnc_marker :
    (after (exec .endEnc (small .enc .eFrame 0#32 0#32))).map (fun s => (s.out, s.status)) =
      some ([1#8], 0x03#8) := by decide
theorem test_reset_from_fault :
    (after (exec .reset { small .fault .dRle 0#32 3#32 with err := .rleOverrun, out := [7#8] })).map
      (fun s => (s.mode, s.err, s.B, s.p, s.out)) = some (.idle, .noError, 8#8, 0#32, [7#8]) := by decide
theorem test_keyByte_last :
    (after (exec (.keyByte 0xAA#8) { small .enc .eKey 2#32 0#32 with keysize := 3#32 })).map
      (fun s => (s.out, s.phase, s.sub)) = some ([0xAA#8], .eGrid, 0#32) := by decide
theorem test_gridLd_last :
    (after (exec (.gridLd ⟨1#8, 2#8, 3#8⟩) (small .enc .eGrid 1#32 0#32))).map (fun s => (s.grid, s.phase)) =
      some ([(1, ⟨1#8, 2#8, 3#8⟩)], .ePix) := by decide
/-- Section 3: grid (16,16,16), accumulator 15, raw (255,255,255): biased 256 does not wrap, so the bit is 0. -/
theorem test_pixEnc_does_not_wrap :
    (after (exec (.pixEnc ⟨255#8, 255#8, 255#8⟩) { small .enc .ePix 0#32 0#32 with
      acc := [(0, 15#4)], grid := [(0, ⟨16#8, 16#8, 16#8⟩)] })).map (fun s => (s.acc, s.runFlag, s.runLen)) =
      some ([(0, 14#4)], false, 1#7) := by decide
/-- Section 4: eight zeros pack to 08, flushed by the last pixel. -/
theorem test_pixEnc_last_flushes :
    (after (exec (.pixEnc ⟨0#8, 0#8, 0#8⟩) { small .enc .ePix 0#32 7#32 with runLen := 7#7 })).map
      (fun s => (s.out, s.frame, s.p, s.phase)) = some ([0x08#8], 1#32, 0#32, .eFrame) := by decide
/-- Section 5: 05 84, the second byte overruns. -/
theorem test_rxByte_overrun :
    (after (exec (.rxByte 0x84#8) (small .dec .dRle 0#32 5#32))).map (fun s => (s.err.code, s.errinfo, s.p)) =
      some (8#8, 0x8400#16, 5#32) := by decide
/-- Section 6, F1: 61 4B. -/
theorem test_rxByte_badMagic :
    (after (exec (.rxByte 0x4B#8) (small .dec .dHdr 1#32 0#32))).map (fun s => (s.status, s.err.code, s.errinfo)) =
      some (0x5C#8, 5#8, 0x4B01#16) := by decide
/-- Section 6, F10. -/
theorem test_rxEos_underrun :
    (after (exec .rxEos (small .dec .dRle 0#32 3#32))).map (fun s => (s.status, s.err.code, s.p)) =
      some (0xBC#8, 9#8, 3#32) := by decide
theorem test_rxEos_after_done :
    after (exec .rxEos (small .done .pNone 0#32 0#32)) = some (small .done .pNone 0#32 0#32) := by decide
/-- Section 6, F21. -/
theorem test_sigErr_codec :
    (after (exec (.sigErr 1#2) (small .dec .dGrid 0#32 0#32))).map (fun s => (s.status, s.err.code)) =
      some (0xAC#8, 3#8) := by decide
theorem test_sigErr_dropped :
    after (exec (.sigErr 0#2) (small .done .pNone 0#32 0#32)) = some (small .done .pNone 0#32 0#32) := by decide

theorem test_wireMagic0 : (after (exec .wireMagic0 (small .dec .dHdr 0#32 0#32))).map State.sub = some 1#32 := by decide
theorem test_wireMagic1 : (after (exec .wireMagic1 (small .dec .dHdr 1#32 0#32))).map State.sub = some 2#32 := by decide
theorem test_wireMagic2 : (after (exec .wireMagic2 (small .dec .dHdr 2#32 0#32))).map State.sub = some 3#32 := by decide
theorem test_wireMagic3 : (after (exec .wireMagic3 (small .dec .dHdr 3#32 0#32))).map State.sub = some 4#32 := by decide
theorem test_wireMagic3_held : after (exec .wireMagic3 (small .dec .dHdr 2#32 0#32)) = none := by decide
/-- Section 7: the width 0x01020304 ends with the byte 01. -/
theorem test_wireWidth_last :
    (after (exec (.wireWidth 1#8) { small .dec .dHdr 7#32 0#32 with W := 0x00020304#32 })).map State.W =
      some 0x01020304#32 := by decide
theorem test_wireHeight_first :
    (after (exec (.wireHeight 2#8) { small .dec .dHdr 8#32 0#32 with H := 0#32 })).map State.H = some 2#32 := by decide
/-- Section 7: FPS 0xABCD ends with the byte AB. Section 6, F4: then D_CONT. -/
theorem test_wireFps_last :
    (after (exec (.wireFps 0xAB#8) { small .dec .dHdr 13#32 0#32 with FPS := 0x00CD#16 })).map
      (fun s => (s.FPS, s.status, s.sub)) = some (0xABCD#16, 0x62#8, 0#32) := by decide
/-- Section 6, F16: the header with W = 5. -/
theorem test_wireFps_configError :
    (after (exec (.wireFps 0#8) { small .dec .dHdr 13#32 0#32 with W := 5#32 })).map
      (fun s => (s.status, s.errinfo, s.sub)) = some (0x5C#8, 0x0003#16, 14#32) := by decide
theorem test_wireContChunk :
    (after (exec .wireContChunk (small .dec .dCont 0#32 0#32))).map State.status = some 0x72#8 := by decide
theorem test_wireContEnd :
    (after (exec .wireContEnd (small .dec .dCont 0#32 0#32))).map State.status = some 0x03#8 := by decide
theorem test_wireTypeVideo :
    (after (exec .wireTypeVideo (small .dec .dType 0#32 0#32))).map State.status = some 0x82#8 := by decide
theorem test_wireKsize_last :
    (after (exec (.wireKsize 0#8) { small .dec .dKsize 3#32 0#32 with keysize := 3#32 })).map
      (fun s => (s.keyout, s.status)) = some ([.begin 3#32], 0x92#8) := by decide
/-- Section 6, F9. -/
theorem test_wireKey :
    (after (exec (.wireKey 0xAA#8) { small .dec .dKey 0#32 0#32 with keysize := 3#32 })).map
      (fun s => (s.keyout, s.sub)) = some ([.byte 0xAA#8], 1#32) := by decide
/-- Section 5: 08. -/
theorem test_wireRleRun0 :
    (after (exec (.wireRleRun0 8#7) (small .dec .dRle 0#32 0#32))).map (fun s => (s.frame, s.phase, s.lumout)) =
      some (1#32, .dCont, List.replicate 8 ⟨false, 0#9, 0#9⟩) := by decide
/-- Section 5: 88. -/
theorem test_wireRleRun1 :
    (after (exec (.wireRleRun1 8#7) (small .dec .dRle 0#32 0#32))).map (fun s => (s.acc.map Prod.snd, s.lumout)) =
      some (List.replicate 8 1#4, List.replicate 8 ⟨true, 0#9, 16#9⟩) := by decide

/-- `s` with nothing offered but the transfers of `l`, each in front of its channel. -/
def offering (l : List Transfer) (s : State) : State :=
  { s with offers := l.foldr (fun t o => o.push t) s.offers }

/-- R9, R243: with nothing acceptable offered there is no step. -/
theorem test_step_not_accepted :
    step (offering [.cmd 0x010000000010#48] (small .enc .eFrame 0#32 0#32)) = .refused .nothingAcceptable := rfl
/-- R9: a pixel offered before its turn waits for it: with W = H = B = 1 the block takes the grid cell first. -/
theorem test_step_pixel_waits :
    (after (step (offering [.pixin 0#24, .gridin 0#24]
      { small .enc .eGrid 0#32 0#32 with W := 1#32, H := 1#32, B := 1#8, schedule := [.pixin, .gridin] }))).map
      (fun t => (t.phase, t.offers.gridin, t.offers.pixin)) = some (.ePix, [], [0#24]) := by decide
/-- R73: a reserved command stays pending while the other channels are served. -/
theorem test_step_reserved_waits :
    (after (step (offering [.cmd 0x040000000000#48, .errin 2#2] (small .enc .eFrame 0#32 0#32)))).map
      (fun t => (t.mode, t.offers.cmd)) = some (.fault, [0x040000000000#48]) := by decide
/-- The first operation after reset. -/
theorem test_step_first :
    (after (step (State.reset.withFetchWord 48 0x010000000010))).map State.W = some 16#32 := by decide
/-- FRAME.BEGIN 2 as the first operation, in a state that accepts it. -/
theorem test_step_first_frameBegin :
    (after (step (State.reset.withFetchWord 48 0x120000000002))).map State.keysize = some 2#32 := by decide
/-- GRID.LD 200, 190, 180 as the first operation, in a state that accepts it. -/
theorem test_step_first_gridLd :
    (after (step (State.reset.withFetchWord 24 0xB4BEC8))).map State.grid = some [(0, ⟨200#8, 190#8, 180#8⟩)] := by decide

/-- R77: the record (1, 100, 116) is 0x4C874 (section 3). -/
theorem test_lumRec_word : (LumRec.mk true 100#9 116#9).word = 0x4C874#19 := by decide
/-- Section 4: the bits 0,0,0,1,1,0. -/
theorem test_rlePack : rlePack [false, false, false, true, true, false] = [0x03#8, 0x82#8, 0x01#8] := by decide
/-- Section 4: 300 ones. -/
theorem test_rlePack_long_run : runBytes (true, 300) = [0xFF#8, 0xFF#8, 0xAE#8] := by decide

/-! ### States that meet the invariant -/

theorem test_inv_idle : Inv (small .idle .pNone 0#32 0#32) := by constructor <;> decide
theorem test_inv_eFrame : Inv (small .enc .eFrame 0#32 0#32) := by constructor <;> decide
theorem test_inv_eGrid : Inv (small .enc .eGrid 0#32 0#32) := by constructor <;> decide
theorem test_inv_eGrid_last : Inv (small .enc .eGrid 1#32 0#32) := by constructor <;> decide
theorem test_inv_dGrid_last : Inv (small .dec .dGrid 1#32 0#32) := by constructor <;> decide
theorem test_inv_ePix : Inv (small .enc .ePix 0#32 0#32) := by constructor <;> decide
theorem test_inv_ePix_last : Inv { small .enc .ePix 0#32 7#32 with runLen := 7#7 } := by constructor <;> decide
theorem test_inv_dCont : Inv (small .dec .dCont 0#32 0#32) := by constructor <;> decide
theorem test_inv_dRle : Inv (small .dec .dRle 0#32 0#32) := by constructor <;> decide
theorem test_inv_dRle_middle : Inv (small .dec .dRle 0#32 5#32) := by constructor <;> decide
theorem test_inv_dRle_other : Inv { small .dec .dRle 0#32 5#32 with grid := [(6, ⟨1#8, 2#8, 3#8⟩)], B := 1#8 } := by
  constructor <;> decide

/-! ### The hypotheses of the statements can be met, clause by clause -/

theorem test_witness_StepRunsTheDecodedOperation :
    (let s := { offering [.cmd 0x010000000010#48, .rx 0#9] (small .idle .pNone 0#32 0#32) with schedule := [.rx, .cmd] }
     s.schedule = [.rx] ++ Channel.cmd :: [] ∧ acceptable s .rx = none ∧
       acceptable s .cmd = some (.cfgWr 0#8 16#32)) ∧
    (let s := { offering [.cmd 0x040000000000#48, .errin 2#2] (small .enc .eFrame 0#32 0#32) with schedule := [.cmd] }
     (∀ d ∈ s.schedule, acceptable s d = none) ∧
       (∀ d ∈ [Channel.cmd, .keyin, .gridin, .pixin, .rx], acceptable s d = none) ∧
       acceptable s .errin = some (.sigErr 2#2)) ∧
    ∀ c, acceptable State.reset c = none :=
  ⟨by decide, by decide, fun c => by cases c <;> decide⟩

theorem test_witness_ReservedEncodingsAreNeverAccepted :
    (0x040000000000#48).toNat / 2 ^ 40 ∉ [0x01, 0x02, 0x03, 0x10, 0x11, 0x12, 0x13, 0x1F] ∧
    ((0x010400000000#48).toNat / 2 ^ 40 = 0x01 ∧ 3 < (0x010400000000#48).toNat / 2 ^ 32 % 256) ∧
    ((0x020A00000000#48).toNat / 2 ^ 40 = 0x02 ∧ 9 < (0x020A00000000#48).toNat / 2 ^ 32 % 256) ∧
    (let s := offering [.cmd 0x040000000000#48, .errin 2#2] (small .enc .eFrame 0#32 0#32)
     s.offers.head .cmd = some (.cmd 0x040000000000#48) ∧ ∃ t, step s = .next t) ∧
    (let s := offering [.cmd 0x130000000000#48, .errin 3#2] (small .enc .eFrame 0#32 0#32)
     s.offers.head .errin = some (.errin 3#2) ∧ ∃ t, step s = .next t) :=
  ⟨by decide, by decide, by decide, ⟨by decide, _, rfl⟩, by decide, _, rfl⟩

theorem test_witness_DecodeReadsBackEveryEncoding :
    ((Instr.cfgWr 3#8 0xFFFFFFFF#32).wellFormed && readableAt (.cfgWr 3#8 0xFFFFFFFF#32) .pNone 0#32) = true ∧
    ((Instr.cfgRd 9#8).wellFormed && readableAt (.cfgRd 9#8) .dRle 0#32) = true ∧
    ((Instr.sigErr 2#2).wellFormed && readableAt (.sigErr 2#2) .pNone 0#32) = true ∧
    ((Instr.rxByte 2#8).wellFormed && readableAt (.rxByte 2#8) .dCont 0#32) = true ∧
    ((Instr.wireMagic0).wellFormed && readableAt .wireMagic0 .dHdr 0#32) = true ∧
    ((Instr.wireWidth 0xFF#8).wellFormed && readableAt (.wireWidth 0xFF#8) .dHdr 7#32) = true ∧
    ((Instr.wireFps 0xFF#8).wellFormed && readableAt (.wireFps 0xFF#8) .dHdr 13#32) = true ∧
    ((Instr.wireKsize 0xFF#8).wellFormed && readableAt (.wireKsize 0xFF#8) .dKsize 3#32) = true ∧
    ((Instr.wireRleRun1 127#7).wellFormed && readableAt (.wireRleRun1 127#7) .dRle 0#32) = true := by decide

theorem test_witness_DecodedOperationsAreWellFormed :
    decode .dKsize 3#32 (.rx 0x0AA#9) = .ok (.wireKsize 0xAA#8) := by decide

theorem test_witness_UnusedFieldsAreIgnored : (9#8).toNat ≤ 9 := by decide

theorem test_witness_AcceptanceMatrix : Inv (small .enc .ePix 0#32 0#32) := test_inv_ePix

theorem test_witness_CfgWrWritesItsRegister :
    (small .idle .pNone 0#32 0#32).mode = .idle ∧
    ¬ ((small .idle .pNone 0#32 0#32).mode = .idle ∧ (4#8).toNat ≤ 3) ∧
    ¬ ((small .enc .eFrame 0#32 0#32).mode = .idle ∧ (3#8).toNat ≤ 3) := by decide

theorem test_witness_CfgRdAnswersTheRegister : (9#8).toNat ≤ 9 ∧ 9 < (10#8).toNat := by decide

theorem test_witness_StatusShowsModeFaultAndPhase :
    (small .idle .pNone 0#32 0#32).mode = .idle ∧ (small .enc .eFrame 0#32 0#32).phase = .eFrame ∧
    (small .enc .ePix 0#32 0#32).phase = .ePix ∧ (small .dec .dRle 0#32 0#32).phase = .dRle ∧
    (small .done .pNone 0#32 0#32).mode = .done ∧ (small .fault .dType 0#32 0#32).mode = .fault := by decide

theorem test_witness_AccRdAnswersTheAccumulator :
    accReady (small .enc .eFrame 0#32 0#32) = true ∧ accReady (small .done .pNone 0#32 0#32) = true ∧
    accReady (small .dec .dCont 0#32 0#32) = true ∧ accReady (small .fault .dCont 0#32 0#32) = true ∧
    (7#32).toNat < (small .enc .eFrame 0#32 0#32).N ∧ ¬ (8#32).toNat < (small .enc .eFrame 0#32 0#32).N ∧
    accReady (small .fault .dHdr 0#32 0#32) = false := by decide

theorem test_witness_SigErrRaisesTheCollaboratorsError :
    (2#2 ≠ 3#2 ∧ (small .enc .eFrame 0#32 0#32).mode = .enc) ∧ (0#2 ≠ 3#2 ∧ (small .dec .dHdr 0#32 0#32).mode = .dec) ∧
    (1#2 ≠ 3#2 ∧ (small .idle .pNone 0#32 0#32).mode ≠ .enc ∧ (small .idle .pNone 0#32 0#32).mode ≠ .dec) := by decide

/-- The vectors of 95_test_vectors.md section 7, the capacity at its boundary. -/
theorem test_witness_CfgCheckTakesTheFirstFailingTest :
    cfgCheck { small .idle .pNone 0#32 0#32 with B := 0#8 } = 1#8 ∧
    cfgCheck { small .idle .pNone 0#32 0#32 with W := 0#32 } = 2#8 ∧
    cfgCheck { small .idle .pNone 0#32 0#32 with W := 5#32, H := 3#32 } = 3#8 ∧
    cfgCheck { small .idle .pNone 0#32 0#32 with H := 3#32 } = 4#8 ∧
    cfgCheck { small .idle .pNone 0#32 0#32 with maxPix := 7#32 } = 5#8 ∧
    cfgCheck { small .idle .pNone 0#32 0#32 with maxPix := 8#32 } = 0#8 ∧
    cfgCheck { small .idle .pNone 0#32 0#32 with W := 65536#32, H := 65536#32, B := 8#8 } = 5#8 := by decide

theorem test_witness_StartEncOpensTheSession :
    ((small .idle .pNone 0#32 0#32).mode = .idle ∧ cfgCheck (small .idle .pNone 0#32 0#32) = 0#8) ∧
    (State.reset.mode = .idle ∧ cfgCheck State.reset = 2#8) ∧ (small .done .pNone 0#32 0#32).mode ≠ .idle := by decide

theorem test_witness_FrameBeginOpensTheChunk :
    ((small .enc .eFrame 0#32 0#32).mode = .enc ∧ (small .enc .eFrame 0#32 0#32).phase = .eFrame) ∧
    ¬ ((small .enc .ePix 0#32 0#32).mode = .enc ∧ (small .enc .ePix 0#32 0#32).phase = .eFrame) := by decide

theorem test_witness_KeyByteIsCopiedToOut :
    (0#32 + 1#32 ≠ { small .enc .eKey 0#32 0#32 with keysize := 2#32 }.keysize ∧
      (small .enc .eKey 0#32 0#32).phase = .eKey) ∧
    (1#32 + 1#32 = { small .enc .eKey 1#32 0#32 with keysize := 2#32 }.keysize) ∧
    (small .enc .eGrid 0#32 0#32).phase ≠ .eKey := by decide

theorem test_witness_EndClosesTheContainer :
    ((small .enc .eFrame 0#32 0#32).mode = .enc ∧ (small .enc .eFrame 0#32 0#32).phase = .eFrame) ∧
    ¬ ((small .idle .pNone 0#32 0#32).mode = .enc ∧ (small .idle .pNone 0#32 0#32).phase = .eFrame) := by decide

theorem test_witness_GridLdLoadsTheNextCell :
    (Inv (small .enc .eGrid 0#32 0#32) ∧ (small .enc .eGrid 0#32 0#32).sub.toNat + 1 ≠
      (small .enc .eGrid 0#32 0#32).NC) ∧
    (Inv (small .dec .dGrid 1#32 0#32) ∧ (small .dec .dGrid 1#32 0#32).sub.toNat + 1 =
      (small .dec .dGrid 1#32 0#32).NC) ∧
    (Inv (small .enc .ePix 0#32 0#32) ∧ guardGridLd (small .enc .ePix 0#32 0#32) = false) :=
  ⟨⟨test_inv_eGrid, by decide⟩, ⟨test_inv_dGrid_last, by decide⟩, test_inv_ePix, by decide⟩

theorem test_witness_CoveringCellExists :
    cfgCheck (small .idle .pNone 0#32 0#32) = 0#8 ∧ 3 < (small .idle .pNone 0#32 0#32).W.toNat ∧
    1 < (small .idle .pNone 0#32 0#32).H.toNat := by decide

theorem test_witness_BumpSaturates : 15 ≤ 15 := by decide

theorem test_witness_PixEncEncodesOnePixel :
    (Inv (small .enc .ePix 0#32 0#32) ∧ (small .enc .ePix 0#32 0#32).p.toNat + 1 ≠ (small .enc .ePix 0#32 0#32).N) ∧
    (Inv { small .enc .ePix 0#32 7#32 with runLen := 7#7 } ∧
      { small .enc .ePix 0#32 7#32 with runLen := 7#7 }.p.toNat + 1 = (small .enc .ePix 0#32 7#32).N) ∧
    (Inv (small .enc .eGrid 0#32 0#32) ∧ (small .enc .eGrid 0#32 0#32).phase ≠ .ePix) :=
  ⟨⟨test_inv_ePix, by decide⟩, ⟨test_inv_ePix_last, by decide⟩, test_inv_eGrid, by decide⟩

theorem test_witness_RunsArePackedGreedily :
    (State.reset.runLen = 0#7 ∧ State.reset.runLen.toNat ≤ 126) ∧
    (125#7 ≠ 0#7 ∧ (125#7).toNat < 126) ∧ (126#7 ≠ 0#7 ∧ (126#7).toNat = 126 ∧ (126#7).toNat ≤ 126) ∧
    true ≠ { State.reset with runLen := 126#7 }.runFlag := by decide

theorem test_witness_StartDecAwaitsTheHeader :
    State.reset.mode = .idle ∧ (small .fault .dHdr 0#32 0#32).mode ≠ .idle := by decide

theorem test_witness_RxByteReadsTheHeader :
    [0x61#8, 0x6B#8, 0x2D#8, 0x63#8][(small .dec .dHdr 3#32 0#32).sub.toNat]? ≠ some 0x4B#8 ∧
    [0x61#8, 0x6B#8, 0x2D#8, 0x63#8][(small .dec .dHdr 0#32 0#32).sub.toNat]? = some 0x61#8 ∧
    (4 ≤ (small .dec .dHdr 4#32 0#32).sub.toNat ∧ (small .dec .dHdr 7#32 0#32).sub.toNat < 8) ∧
    (8 ≤ (small .dec .dHdr 8#32 0#32).sub.toNat ∧ (small .dec .dHdr 11#32 0#32).sub.toNat < 12) ∧
    (small .dec .dHdr 12#32 0#32).sub.toNat = 12 ∧
    (cfgCheck { small .dec .dHdr 13#32 0#32 with W := 5#32 } ≠ 0#8 ∧ (small .dec .dHdr 13#32 0#32).mode = .dec) ∧
    cfgCheck (small .dec .dHdr 13#32 0#32) = 0#8 := by decide

theorem test_witness_RxByteReadsTheFraming :
    ((small .dec .dCont 0#32 0#32).mode = .dec ∧ (small .dec .dCont 0#32 0#32).phase = .dCont ∧ 2 ≤ (2#8).toNat) ∧
    ((small .dec .dType 0#32 0#32).mode = .dec ∧ (small .dec .dType 0#32 0#32).phase = .dType ∧ 1#8 ≠ 0x00#8) := by
  decide

theorem test_witness_RxByteReadsTheKeySize :
    ((small .dec .dKsize 2#32 0#32).phase = .dKsize ∧ (small .dec .dKsize 2#32 0#32).sub.toNat < 3) ∧
    ((small .dec .dKsize 3#32 0#32).mode = .dec ∧ (small .dec .dKsize 3#32 0#32).sub.toNat = 3) := by decide

theorem test_witness_RxByteCopiesTheKeyImage :
    ((small .dec .dKey 0#32 0#32).mode = .dec ∧ 0#32 + 1#32 ≠ { small .dec .dKey 0#32 0#32 with keysize := 2#32 }.keysize) ∧
    ((small .dec .dKey 1#32 0#32).phase = .dKey ∧
      1#32 + 1#32 = { small .dec .dKey 1#32 0#32 with keysize := 2#32 }.keysize) := by decide

theorem test_witness_RxByteReconstructsTheRun :
    Inv (small .dec .dRle 0#32 5#32) ∧ (0x80#8).toNat % 128 = 0 ∧
    ((small .dec .dRle 0#32 5#32).N - (small .dec .dRle 0#32 5#32).p.toNat < (0x84#8).toNat % 128) ∧
    ((0x82#8).toNat % 128 ≠ 0 ∧ (small .dec .dRle 0#32 5#32).p.toNat + (0x82#8).toNat % 128 ≠
      (small .dec .dRle 0#32 5#32).N) ∧
    ((0x83#8).toNat % 128 ≤ (small .dec .dRle 0#32 5#32).N - (small .dec .dRle 0#32 5#32).p.toNat ∧
      (small .dec .dRle 0#32 5#32).p.toNat + (0x83#8).toNat % 128 = (small .dec .dRle 0#32 5#32).N) :=
  ⟨test_inv_dRle_middle, by decide⟩

theorem test_witness_RxEosEndsTheStream :
    ((small .dec .dRle 0#32 3#32).mode = .dec ∧ (small .dec .dRle 0#32 3#32).phase = .dRle) ∧
    ((small .dec .dGrid 0#32 0#32).mode = .dec ∧ (small .dec .dGrid 0#32 0#32).phase ≠ .dRle) ∧
    (small .fault .dRle 0#32 0#32).mode = .fault ∧ (small .enc .eFrame 0#32 0#32).mode = .enc := by decide

theorem test_witness_MagicTokensAdvanceTheHeader :
    ((small .dec .dHdr 3#32 0#32).mode = .dec ∧ (small .dec .dHdr 3#32 0#32).phase = .dHdr ∧
      (small .dec .dHdr 3#32 0#32).sub = 3#32) ∧
    ¬ ((small .dec .dHdr 1#32 0#32).mode = .dec ∧ (small .dec .dHdr 1#32 0#32).phase = .dHdr ∧
      (small .dec .dHdr 1#32 0#32).sub = 0#32) ∧
    ¬ ((small .done .pNone 1#32 0#32).mode = .dec ∧ (small .done .pNone 1#32 0#32).phase = .dHdr ∧
      (small .done .pNone 1#32 0#32).sub = 1#32) := by decide

theorem test_witness_FieldTokensFillTheHeader :
    ((small .dec .dHdr 4#32 0#32).mode = .dec ∧ (small .dec .dHdr 4#32 0#32).phase = .dHdr) ∧
    (4 ≤ (4#32).toNat ∧ (7#32).toNat ≤ 7) ∧ (8 ≤ (8#32).toNat ∧ (11#32).toNat ≤ 11) ∧ (12#32).toNat = 12 ∧
    ((small .dec .dHdr 13#32 0#32).sub.toNat = 13 ∧ cfgCheck (small .dec .dHdr 13#32 0#32) = 0#8) ∧
    cfgCheck { small .dec .dHdr 13#32 0#32 with H := 3#32 } ≠ 0#8 := by decide

theorem test_witness_ChunkTokensMoveTheReader :
    (small .dec .dCont 0#32 0#32).phase = .dCont ∧ (small .dec .dType 0#32 0#32).phase = .dType ∧
    ((small .dec .dKsize 2#32 0#32).phase = .dKsize ∧ (small .dec .dKsize 2#32 0#32).sub.toNat < 3) ∧
    (small .dec .dKsize 3#32 0#32).sub.toNat = 3 ∧
    ((small .dec .dKey 0#32 0#32).mode = .dec ∧ 0#32 + 1#32 ≠ { small .dec .dKey 0#32 0#32 with keysize := 2#32 }.keysize) ∧
    1#32 + 1#32 = { small .dec .dKey 1#32 0#32 with keysize := 2#32 }.keysize := by decide

theorem test_witness_RunTokensReconstructTheirPixels :
    Inv (small .dec .dRle 0#32 5#32) ∧
    ((small .dec .dRle 0#32 5#32).N - (small .dec .dRle 0#32 5#32).p.toNat < (4#7).toNat) ∧
    (3#7 ≠ 0#7 ∧ (3#7).toNat ≤ (small .dec .dRle 0#32 5#32).N - (small .dec .dRle 0#32 5#32).p.toNat) ∧
    (1#7 ≠ 0#7 ∧ (1#7).toNat ≤ (small .dec .dRle 0#32 5#32).N - (small .dec .dRle 0#32 5#32).p.toNat) :=
  ⟨test_inv_dRle_middle, by decide⟩

theorem test_witness_WireTokensAreTakenOnlyInTheirPlace :
    tokenPlace (.wireWidth 1#8) = some (.dHdr, 4, 7) ∧ guardWire .dHdr 4 7 (small .dec .dHdr 7#32 0#32) = true ∧
    guardWire .dHdr 4 7 (small .dec .dHdr 8#32 0#32) = false := by decide

theorem test_witness_RxByteIsItsWireToken :
    decodeWire (small .dec .dHdr 13#32 0#32).phase (small .dec .dHdr 13#32 0#32).sub 1#8 = some (.wireFps 1#8) ∧
    decodeWire (small .dec .dRle 0#32 0#32).phase (small .dec .dRle 0#32 0#32).sub 0x80#8 = some (.wireRleRun1 0#7) := by
  decide

theorem test_witness_OutputsOnlyGrow : ∃ t, exec .reset { State.reset with out := [1#8] } = .next t := ⟨_, rfl⟩

theorem test_witness_EndedSessionIsChangedOnlyByReset :
    ((small .done .pNone 0#32 0#32).mode = .done ∧ ∃ t, exec (.cfgRd 0#8) (small .done .pNone 0#32 0#32) = .next t) ∧
    ((small .fault .dRle 0#32 0#32).mode = .fault ∧ ∃ t, exec .rxEos (small .fault .dRle 0#32 0#32) = .next t) :=
  ⟨⟨rfl, _, rfl⟩, rfl, _, rfl⟩

theorem test_witness_FaultsArePrecise :
    (∃ t, exec (.rxByte 0x84#8) (small .dec .dRle 0#32 5#32) = .next t ∧ t.mode = .fault) ∧
    (∃ t, exec (.rxByte 0#8) { small .dec .dHdr 13#32 0#32 with W := 5#32 } = .next t ∧ t.mode = .fault) :=
  ⟨⟨_, rfl, by decide⟩, _, rfl, by decide⟩

theorem test_witness_ModesAreEnteredAndLeftAsListed :
    (∃ t, exec .startEnc (small .idle .pNone 0#32 0#32) = .next t ∧ Mode.idle ≠ t.mode) ∧
    (∃ t, exec .rxEos (small .dec .dGrid 0#32 0#32) = .next t ∧ Mode.dec ≠ t.mode) :=
  ⟨⟨_, rfl, by decide⟩, _, rfl, by decide⟩

theorem test_witness_PhasesFollowTheirOrder :
    Inv (small .dec .dGrid 1#32 0#32) ∧
    ∃ t, exec (.gridLd ⟨0#8, 0#8, 0#8⟩) (small .dec .dGrid 1#32 0#32) = .next t ∧ Phase.dGrid ≠ t.phase :=
  ⟨test_inv_dGrid_last, _, rfl, by decide⟩

theorem test_witness_AccumulatorsAreWrittenOnlyByPixels :
    inSession (small .dec .dRle 0#32 0#32) = true ∧
    (∃ t, exec (.rxByte 0x81#8) (small .dec .dRle 0#32 0#32) = .next t ∧ t.acc ≠ (small .dec .dRle 0#32 0#32).acc) ∧
    ∃ t, exec (.wireFps 0#8) { small .dec .dHdr 13#32 0#32 with acc := [(0, 1#4)] } = .next t ∧ t.acc ≠ [(0, 1#4)] :=
  ⟨by decide, ⟨_, rfl, by decide⟩, _, rfl, by decide⟩

theorem test_witness_ConfigurationIsFixedDuringASession :
    (small .dec .dHdr 4#32 0#32).mode ≠ .idle ∧ ∃ t, exec (.rxByte 1#8) (small .dec .dHdr 4#32 0#32) = .next t :=
  ⟨by decide, _, rfl⟩

theorem test_witness_FrameCountsCompletedFrames :
    (∃ t, exec .startEnc (small .idle .pNone 0#32 0#32) = .next t ∧ t.mode ≠ .fault) ∧
    (∃ t, exec (.rxByte 0x88#8) (small .dec .dRle 0#32 0#32) = .next t) := ⟨⟨_, rfl, by decide⟩, _, rfl⟩

theorem test_witness_UnspecifiedStoresAreUnobservable :
    ((small .idle .pNone 0#32 0#32).mode = .idle ∧
      ∃ t, exec .startEnc (small .idle .pNone 0#32 0#32) = .next t ∧ t.mode = .enc) ∧
    (Inv (small .enc .eGrid 1#32 0#32) ∧ Inv { small .enc .eGrid 1#32 0#32 with grid := [(1, ⟨1#8, 2#8, 3#8⟩)] } ∧
      SameSeen (small .enc .eGrid 1#32 0#32) { small .enc .eGrid 1#32 0#32 with grid := [(1, ⟨1#8, 2#8, 3#8⟩)] } ∧
      ∃ t, exec (.gridLd ⟨4#8, 5#8, 6#8⟩) (small .enc .eGrid 1#32 0#32) = .next t) ∧
    SameSeen (small .dec .dHdr 0#32 0#32) { small .dec .dHdr 0#32 0#32 with acc := [(0, 1#4)] } ∧
    exec .startDec (small .enc .eGrid 1#32 0#32) = .refused .notAccepted := by
  refine ⟨⟨rfl, _, rfl, by decide⟩, ⟨test_inv_eGrid_last, by constructor <;> decide, ⟨rfl, fun _ _ _ => rfl, ?_⟩, _, rfl⟩,
    ⟨rfl, fun h => absurd h (by decide), fun _ _ => rfl⟩, rfl⟩
  intro g h
  have hg : g = 0 := by simpa [loaded, small] using h
  subst hg
  decide

theorem test_witness_DecodedAccumulatorsDoNotDependOnTheGrid :
    Inv (small .dec .dRle 0#32 5#32) ∧
    Inv { small .dec .dRle 0#32 5#32 with grid := [(6, ⟨1#8, 2#8, 3#8⟩)], B := 1#8 } ∧
    ∃ t, exec (.rxByte 0x83#8) (small .dec .dRle 0#32 5#32) = .next t :=
  ⟨test_inv_dRle_middle, test_inv_dRle_other, _, rfl⟩

theorem test_witness_EqualBumpsLeaveEqualBanks :
    (small .enc .ePix 0#32 0#32).acc = (small .dec .dRle 0#32 5#32).acc := by decide

theorem test_witness_EveryStepKeepsTheInvariant :
    Inv State.reset ∧ ∃ t, step (State.reset.withFetchWord 48 0x100000000000) = .next t :=
  ⟨by constructor <;> decide, _, rfl⟩

theorem test_witness_AnOfferNeverStopsTheBlock :
    (let s := offering [.pixin 0#24, .keyin 0#8] (small .enc .ePix 0#32 0#32)
     Inv s ∧ acceptable s .pixin = some (.pixEnc ⟨0#8, 0#8, 0#8⟩) ∧ acceptable s .keyin = none ∧
       ∃ t, step s = .next t) ∧
    Inv State.reset ∧ ∀ c, acceptable State.reset c = none :=
  ⟨⟨by constructor <;> decide, by decide, by decide, _, rfl⟩, by constructor <;> decide, fun c => by cases c <;> decide⟩

theorem test_witness_PackerEmitsRlePack : State.reset.runLen = 0#7 := by decide

theorem test_witness_EncodedFrameIsASnapshotFunction :
    Inv (small .enc .ePix 0#32 0#32) ∧ (small .enc .ePix 0#32 0#32).p = 0#32 ∧
    (List.replicate 8 (Rgb.mk 1#8 2#8 3#8)).length = (small .enc .ePix 0#32 0#32).N :=
  ⟨test_inv_ePix, by decide⟩

theorem test_witness_DecodedFrameAppliesTheBitPlane :
    Inv (small .dec .dRle 0#32 0#32) ∧ (small .dec .dRle 0#32 0#32).p = 0#32 ∧
    (List.replicate 8 true).length = (small .dec .dRle 0#32 0#32).N := ⟨test_inv_dRle, by decide⟩

/-- One frame of the small machine with a key image of one byte. -/
def smallFrame : FrameIn :=
  { key := [0xAA#8], grid := List.replicate 2 ⟨0#8, 0#8, 0#8⟩, pixels := List.replicate 8 ⟨1#8, 1#8, 1#8⟩ }

theorem test_witness_SessionRoundTrip :
    Inv (small .idle .pNone 0#32 0#32) ∧ Inv { State.reset with B := 2#8 } ∧
    cfgCheck (small .idle .pNone 0#32 0#32) = 0#8 ∧
    { State.reset with B := 2#8 }.maxPix = (small .idle .pNone 0#32 0#32).maxPix ∧
    FrameFits (small .idle .pNone 0#32 0#32) smallFrame ∧
    smallFrame.grid.length = (small .idle .pNone 0#32 0#32).NC :=
  ⟨test_inv_idle, by constructor <;> decide, by decide, by decide, by unfold FrameFits; decide, by decide⟩

theorem test_witness_UnreachableAccessesFault :
    (small .enc .eGrid 2#32 0#32).NC ≤ (small .enc .eGrid 2#32 0#32).sub.toNat ∧
    (small .enc .ePix 0#32 8#32).N ≤ (small .enc .ePix 0#32 8#32).p.toNat ∧
    decPhase (small .dec .ePix 0#32 0#32).phase = false := by decide

end Sys2Proof.Machine
end

section
/-! SUPPORT. Every operation is its guard and an effect: what each effect can answer, and what no effect touches. -/

namespace Sys2Proof.Machine

/-! ### An operation as a guard and an effect (00_scope.md R9) -/

/-- What an operation does once it is accepted: `exec` without its guard (`exec_eq_guarded`). -/
def effect (i : Instr) (s : State) : Result :=
  match i with
  | .cfgWr n v => .next (writeCR n.toNat v s)
  | .cfgRd n => .next (emitRsp (readCR s n.toNat) s)
  | .accRd k => .next (emitRsp ((accRead s k.toNat).setWidth 32) s)
  | .startEnc => .next (if cfgCheck s = 0#8 then openEnc s else raise .configError (cfgCheck s) 0#8 s)
  | .startDec => .next { s with
      W := 0#32, H := 0#32, FPS := 0#16, mode := .dec, phase := .dHdr, sub := 0#32, frame := 0#32, p := 0#32 }
  | .frameBegin k => .next { emitOut (chunkBytes k) s with
      keysize := k, sub := 0#32, phase := if k = 0#32 then .eGrid else .eKey }
  | .endEnc => .next { emitOut [endMarker] s with mode := .done, phase := .pNone }
  | .reset => .next (resetState s)
  | .keyByte b => .next (passKeyByte b s)
  | .gridLd c => if s.sub.toNat < s.NC then .next (loadCell c s) else .fault .noSuchCell
  | .pixEnc c => withCells 1 s (.next (encodePixel c s))
  | .rxByte b => rxByPhase b s
  | .rxEos => .next (if s.mode = .dec then
      raise (if s.phase = .dRle then .rleUnderrun else .truncatedStream) 0#8 0#8 s
    else s)
  | .sigErr k => .next (if inSession s then raise (signalledError k) 0#8 0#8 s else s)
  | .wireMagic0 => .next (rxHeader 0x61#8 s)
  | .wireMagic1 => .next (rxHeader 0x6B#8 s)
  | .wireMagic2 => .next (rxHeader 0x2D#8 s)
  | .wireMagic3 => .next (rxHeader 0x63#8 s)
  | .wireWidth v => .next (rxHeader v s)
  | .wireHeight v => .next (rxHeader v s)
  | .wireFps v => .next (rxHeader v s)
  | .wireContChunk => .next (rxCont 0x00#8 s)
  | .wireContEnd => .next (rxCont 0x01#8 s)
  | .wireTypeVideo => .next (rxType 0x00#8 s)
  | .wireKsize v => .next (rxKsize v s)
  | .wireKey b => .next (rxKey b s)
  | .wireRleRun0 len => rxRun (rleByte false len) s
  | .wireRleRun1 len => rxRun (rleByte true len) s

/-- Each operation is accepted under the guard `accepts` gives it, and under no other. -/
theorem exec_eq_guarded (i : Instr) (s : State) : exec i s = guarded (accepts i s) (effect i s) := by
  cases i <;> rfl

theorem exec_of_accepts {i : Instr} {s : State} (h : accepts i s = true) : exec i s = effect i s := by
  rw [exec_eq_guarded, h]
  rfl

theorem exec_next {i : Instr} {s t : State} : exec i s = .next t ↔ accepts i s = true ∧ effect i s = .next t := by
  rw [exec_eq_guarded, guarded_next]

/-! ### Refusals -/

theorem withCells_not_refused (n : Nat) (s t : State) (q : Refusal) : withCells n s (.next t) ≠ .refused q := by
  unfold withCells
  split <;> simp

theorem rxByPhase_not_refused (b : Byte) (s : State) (q : Refusal) : rxByPhase b s ≠ .refused q := by
  cases hp : s.phase <;> simp [rxByPhase, hp, rxRun_not_refused]

/-- An accepted operation is never refused: only the guard refuses. -/
theorem effect_not_refused (i : Instr) (s : State) (q : Refusal) : effect i s ≠ .refused q := by
  cases i with
  | gridLd c =>
    unfold effect
    dsimp only
    split <;> simp
  | pixEnc c => exact withCells_not_refused 1 s _ q
  | rxByte b => exact rxByPhase_not_refused b s q
  | wireRleRun0 len | wireRleRun1 len => exact rxRun_not_refused _ s q
  | _ => simp [effect]

/-- Settles O10: the guard of `exec_eq_guarded` refuses, and the effect behind it never does. -/
theorem refusedExactlyWhenNotAccepted : Obligations.RefusedExactlyWhenNotAccepted := by
  intro i s
  have refused_iff (r : Refusal) : exec i s = .refused r ↔ accepts i s = false ∧ r = .notAccepted := by
    simp [exec_eq_guarded, guarded_refused, effect_not_refused]
  exact ⟨by simp [refused_iff], fun r h => ((refused_iff r).1 h).2⟩

/-! ### What no operation touches -/

/-- From `s` to `t` each output channel has at most emitted more, and what is outside the block is the same. -/
def Grows (s t : State) : Prop :=
  s.out <+: t.out ∧ s.keyout <+: t.keyout ∧ s.lumout <+: t.lumout ∧ s.rsp <+: t.rsp ∧
  t.offers = s.offers ∧ t.schedule = s.schedule ∧ t.maxPix = s.maxPix

theorem Grows.refl (s : State) : Grows s s := by simp [Grows]

theorem Grows.trans {s t u : State} (h : Grows s t) (h' : Grows t u) : Grows s u := by
  obtain ⟨out, keyout, lumout, rsp, offers, schedule, maxPix⟩ := h
  obtain ⟨out', keyout', lumout', rsp', offers', schedule', maxPix'⟩ := h'
  exact ⟨out.trans out', keyout.trans keyout', lumout.trans lumout', rsp.trans rsp',
    offers'.trans offers, schedule'.trans schedule, maxPix'.trans maxPix⟩

theorem raise_grows (e : ErrCode) (x y : Byte) (s : State) : Grows s (raise e x y s) := by simp [Grows]

theorem resetState_grows (s : State) : Grows s (resetState s) := by simp [Grows]

theorem emitOut_grows (bs : List Byte) (s : State) : Grows s (emitOut bs s) := by simp [Grows]

theorem emitRsp_grows (v : Word) (s : State) : Grows s (emitRsp v s) := by simp [Grows]

theorem writeCR_grows (n : Nat) (v : Word) (s : State) : Grows s (writeCR n v s) := by
  rcases writeCR_cases n v s with ⟨_, h⟩ | ⟨_, h⟩ | ⟨_, h⟩ | ⟨_, h⟩ | ⟨_, h⟩ <;> simp [h, Grows]

theorem openEnc_grows (s : State) : Grows s (openEnc s) := by simp [openEnc_eq, Grows]

theorem passKeyByte_grows (b : Byte) (s : State) : Grows s (passKeyByte b s) := by
  rcases passKeyByte_cases b s with ⟨_, h⟩ | ⟨_, h⟩ <;> simp [h, Grows]

theorem loadCell_grows (c : Rgb) (s : State) : Grows s (loadCell c s) := by
  rcases loadCell_cases c s with ⟨_, h⟩ | ⟨_, h⟩ <;> simp [h, Grows]

theorem encodePixel_grows (c : Rgb) (s : State) : Grows s (encodePixel c s) := by
  obtain ⟨o, f, l, hout, ⟨_, h⟩ | ⟨_, h⟩⟩ := encodePixel_frame c s <;> simp [h, Grows, hout]

theorem decPixels_grows (n : Nat) (bit : Bool) (s : State) : Grows s (decPixels n bit s) := by
  obtain ⟨A, L, hlum, h⟩ := decPixels_frame n bit s
  simp [h, Grows, hlum]

theorem endFrameDec_grows (s : State) : Grows s (endFrameDec s) := by
  rcases endFrameDec_cases s with ⟨_, h⟩ | ⟨_, h⟩ <;> simp [h, Grows]

theorem rxRun_grows {b : Byte} {s t : State} (h : rxRun b s = .next t) : Grows s t := by
  rcases rxRun_cases h with ⟨_, rfl⟩ | ⟨_, _, rfl⟩ | ⟨_, _, rfl⟩
  · exact raise_grows _ _ _ s
  · exact raise_grows _ _ _ s
  · exact (decPixels_grows _ _ s).trans (endFrameDec_grows _)

theorem advanceHeader_grows (s : State) : Grows s (advanceHeader s) := by
  rcases advanceHeader_cases s with ⟨_, h⟩ | ⟨_, _, h⟩ | ⟨_, _, h⟩ <;> simp [h, Grows]

theorem rxHeader_grows (b : Byte) (s : State) : Grows s (rxHeader b s) := by
  rcases rxHeader_cases b s with ⟨_, _, h⟩ | ⟨_, _, h⟩ | ⟨_, _, h⟩ | ⟨_, _, h⟩ | ⟨_, h⟩ <;> rw [h]
  · exact raise_grows _ _ _ s
  · exact advanceHeader_grows s
  -- the byte first fills W, H or FPS, of which `Grows` says nothing
  all_goals exact .trans (by simp [Grows]) (advanceHeader_grows _)

theorem rxCont_grows (b : Byte) (s : State) : Grows s (rxCont b s) := by
  rcases rxCont_cases b s with ⟨_, h⟩ | ⟨_, h⟩ | ⟨_, _, h⟩ <;> simp [h, Grows]

theorem rxType_grows (b : Byte) (s : State) : Grows s (rxType b s) := by
  rcases rxType_cases b s with ⟨_, h⟩ | ⟨_, h⟩ <;> simp [h, Grows]

theorem rxKsize_grows (b : Byte) (s : State) : Grows s (rxKsize b s) := by
  rcases rxKsize_cases b s with ⟨_, h⟩ | ⟨_, h⟩ <;> simp [h, Grows]

theorem rxKey_grows (b : Byte) (s : State) : Grows s (rxKey b s) := by
  rcases rxKey_cases b s with ⟨_, h⟩ | ⟨_, h⟩ <;> simp [h, Grows]

theorem rxByPhase_grows {b : Byte} {s t : State} (h : rxByPhase b s = .next t) : Grows s t := by
  rcases rxByPhase_cases h with ⟨_, rfl⟩ | ⟨_, rfl⟩ | ⟨_, rfl⟩ | ⟨_, rfl⟩ | ⟨_, rfl⟩ | ⟨_, hrun⟩
  · exact rxHeader_grows b s
  · exact rxCont_grows b s
  · exact rxType_grows b s
  · exact rxKsize_grows b s
  · exact rxKey_grows b s
  · exact rxRun_grows hrun

theorem effect_grows {i : Instr} {s t : State} (h : effect i s = .next t) : Grows s t := by
  cases i with
  | gridLd c =>
    unfold effect at h
    dsimp only at h
    split at h
    · cases h
      exact loadCell_grows c s
    · cases h
  | pixEnc c =>
    obtain ⟨_, h⟩ := withCells_next.1 h
    cases h
    exact encodePixel_grows c s
  | rxByte b => exact rxByPhase_grows h
  | wireRleRun0 len | wireRleRun1 len => exact rxRun_grows h
  | cfgWr n v => cases h; exact writeCR_grows _ v s
  | cfgRd n | accRd k => cases h; exact emitRsp_grows _ s
  | startEnc =>
    cases h
    split
    · exact openEnc_grows s
    · exact raise_grows _ _ _ s
  | startDec => cases h; simp [Grows]
  | frameBegin k | endEnc => cases h; exact emitOut_grows _ s
  | reset => cases h; exact resetState_grows s
  | keyByte b => cases h; exact passKeyByte_grows b s
  | rxEos | sigErr k =>
    cases h
    split
    · exact raise_grows _ _ _ s
    · exact Grows.refl s
  | wireMagic0 | wireMagic1 | wireMagic2 | wireMagic3 | wireWidth v | wireHeight v | wireFps v =>
    cases h; exact rxHeader_grows _ s
  | wireContChunk | wireContEnd => cases h; exact rxCont_grows _ s
  | wireTypeVideo => cases h; exact rxType_grows _ s
  | wireKsize v => cases h; exact rxKsize_grows v s
  | wireKey b => cases h; exact rxKey_grows b s

theorem exec_grows {i : Instr} {s t : State} (h : exec i s = .next t) : Grows s t :=
  effect_grows (exec_next.1 h).2

/-- Settles O42: every effect is made of shared operations that only append to the output channels. -/
theorem outputsOnlyGrow : Obligations.OutputsOnlyGrow := fun _ _ _ => exec_grows

end Sys2Proof.Machine
end

section
/-! SUPPORT. The step: which operation it takes up (20_memory.md R61, R62), and that with the invariant an acceptable
operation always has a next state (20_memory.md R59, 60_exceptions.md R243). -/

namespace Sys2Proof.Machine

/-! ### The choice of the channel -/

/-- The converse of `pickFrom_some`: the first channel of the list that can be served is picked. -/
theorem pickFrom_append {s : State} {pre rest : List Channel} {c : Channel} {i : Instr}
    (hpre : ∀ d ∈ pre, acceptable s d = none) (hc : acceptable s c = some i) :
    pickFrom s (pre ++ c :: rest) = some (c, i, rest) := by
  induction pre with
  | nil => simp [pickFrom, hc]
  | cons d ds ih =>
    have hd : acceptable s d = none := hpre d (by simp)
    simpa [pickFrom, hd] using ih fun e he => hpre e (by simp [he])

theorem step_of_schedule {s : State} {c : Channel} {i : Instr} {rest : List Channel}
    (h : pickFrom s s.schedule = some (c, i, rest)) : step s = exec i (takeOffer c rest s) := by
  simp [step, nextOperation, h]

theorem step_past_schedule {s : State} {c : Channel} {i : Instr} {rest : List Channel}
    (hsched : pickFrom s s.schedule = none) (hall : pickFrom s allChannels = some (c, i, rest)) :
    step s = exec i (takeOffer c [] s) := by
  simp [step, nextOperation, hsched, hall]

theorem step_of_nothing_acceptable {s : State} (h : ∀ c, acceptable s c = none) :
    step s = .refused .nothingAcceptable := by
  simp [step, nextOperation_none.2 h]

/-- Settles O3: the four cases of `nextOperation`, each found by the first channel that can be served. -/
theorem stepRunsTheDecodedOperation : Obligations.StepRunsTheDecodedOperation := by
  refine ⟨fun _ _ _ => acceptable_some, ?_, ?_, fun _ => step_of_nothing_acceptable⟩
  · intro s pre rest c i hsched hpre hc
    exact step_of_schedule (hsched ▸ pickFrom_append hpre hc)
  · intro s pre rest c i hsched hall hpre hc
    have hpick : pickFrom s allChannels = some (c, i, rest) := by
      rw [allChannels, hall]
      exact pickFrom_append hpre hc
    exact step_past_schedule (pickFrom_none.2 hsched) hpick

/-! ### The cells of a session exist (20_memory.md R59) -/

/-- Every pixel of a usable configuration has its grid cell: its row and its column of blocks exist. -/
theorem cellOf_lt_NC {s : State} (hcfg : cfgCheck s = 0#8) {i : Nat} (hi : i < s.N) : cellOf s i < s.NC := by
  obtain ⟨_, hW, _, hWB, hHB, _⟩ := cfgCheck_zero.1 hcfg
  have hWpos : 0 < s.W.toNat := Nat.pos_of_ne_zero fun e => hW (BitVec.eq_of_toNat_eq (by simpa using e))
  have hcol : i % s.W.toNat / s.B.toNat < s.W.toNat / s.B.toNat :=
    Nat.div_lt_div_of_lt_of_dvd (Nat.dvd_of_mod_eq_zero hWB) (Nat.mod_lt _ hWpos)
  have hrow : i / s.W.toNat / s.B.toNat < s.H.toNat / s.B.toNat :=
    Nat.div_lt_div_of_lt_of_dvd (Nat.dvd_of_mod_eq_zero hHB) (Nat.div_lt_of_lt_mul hi)
  calc cellOf s i
      < (i / s.W.toNat / s.B.toNat) * (s.W.toNat / s.B.toNat) + s.W.toNat / s.B.toNat := Nat.add_lt_add_left hcol _
    _ = (i / s.W.toNat / s.B.toNat + 1) * (s.W.toNat / s.B.toNat) := (Nat.succ_mul _ _).symm
    _ ≤ (s.H.toNat / s.B.toNat) * (s.W.toNat / s.B.toNat) := Nat.mul_le_mul_right _ hrow
    _ = s.NC := Nat.mul_comm _ _

theorem cellsExist_of_le {s : State} (hcfg : cfgCheck s = 0#8) {n : Nat} (hn : s.p.toNat + n ≤ s.N) :
    cellsExist s n = true :=
  cellsExist_iff.2 ⟨hn, fun _ hk => cellOf_lt_NC hcfg (by omega)⟩

/-! ### An accepted operation has a next state -/

/-- A run byte in a usable configuration: its own tests keep it from any pixel past the frame (42_rle.md R137). -/
theorem rxRun_has_next (b : Byte) {s : State} (hcfg : cfgCheck s = 0#8) (hp : s.p.toNat ≤ s.N) :
    ∃ t, rxRun b s = .next t := by
  unfold rxRun
  dsimp only
  split
  · exact ⟨_, rfl⟩
  · split
    · exact ⟨_, rfl⟩
    · exact ⟨_, withCells_next.2 ⟨cellsExist_of_le hcfg (by omega), rfl⟩⟩

theorem Inv.rxRun_has_next {s : State} (h : Inv s) (hmode : s.mode = .dec) (hphase : s.phase = .dRle) (b : Byte) :
    ∃ t, rxRun b s = .next t := by
  have hcfg : cfgCheck s = 0#8 := h.config (.inr ⟨hmode, by simp [hphase]⟩)
  have hp : s.p.toNat < s.N := h.cursorIn (by simp [inSession, hmode]) (.inr hphase)
  exact Machine.rxRun_has_next b hcfg hp.le

theorem Inv.rxByPhase_has_next {s : State} (h : Inv s) (hmode : s.mode = .dec) (hgrid : s.phase ≠ .dGrid) (b : Byte) :
    ∃ t, rxByPhase b s = .next t := by
  have hdec := h.decPhases hmode
  unfold rxByPhase
  cases hphase : s.phase with
  | pNone | eFrame | eKey | eGrid | ePix => simp [decPhase, hphase] at hdec
  | dGrid => exact absurd hphase hgrid
  | dRle => exact h.rxRun_has_next hmode hphase b
  | dHdr | dCont | dType | dKsize | dKey => exact ⟨_, rfl⟩

theorem Inv.loadCell_has_cell {s : State} (h : Inv s) (hg : guardGridLd s = true) : s.sub.toNat < s.NC := by
  have hplace : (s.mode = .enc ∧ s.phase = .eGrid) ∨ (s.mode = .dec ∧ s.phase = .dGrid) := by
    simpa [guardGridLd] using hg
  rcases hplace with ⟨hmode, hphase⟩ | ⟨hmode, hphase⟩
  · exact h.subGrid (by simp [inSession, hmode]) (.inl hphase)
  · exact h.subGrid (by simp [inSession, hmode]) (.inr hphase)

theorem Inv.pixel_has_cell {s : State} (h : Inv s) (hg : guardPixEnc s = true) : cellsExist s 1 = true := by
  obtain ⟨hmode, hphase⟩ : s.mode = .enc ∧ s.phase = .ePix := by simpa [guardPixEnc] using hg
  exact cellsExist_of_le (h.config (.inl hmode)) (h.cursorIn (by simp [inSession, hmode]) (.inl hphase))

theorem Inv.run_token_has_next {s : State} (h : Inv s) (hg : guardWire .dRle 0 4294967295 s = true) (b : Byte) :
    ∃ t, rxRun b s = .next t := by
  obtain ⟨⟨⟨hmode, hphase⟩, _⟩, _⟩ : ((s.mode = .dec ∧ s.phase = .dRle) ∧ _) ∧ _ := by
    simpa only [guardWire, Bool.and_eq_true, decide_eq_true_eq] using hg
  exact h.rxRun_has_next hmode hphase b

/-- With the invariant the faults of the model's own (log entries 10 and 11) are out of reach. -/
theorem Inv.exec_has_next {s : State} (h : Inv s) {i : Instr} (ha : accepts i s = true) :
    ∃ t, exec i s = .next t := by
  rw [exec_of_accepts ha]
  cases i with
  | gridLd c => exact ⟨_, if_pos (h.loadCell_has_cell ha)⟩
  | pixEnc c => exact ⟨_, withCells_next.2 ⟨h.pixel_has_cell ha, rfl⟩⟩
  | rxByte b =>
    have hg : guardRxByte s = true := ha
    obtain ⟨hmode, hgrid⟩ : s.mode = .dec ∧ s.phase ≠ .dGrid := by simpa [guardRxByte] using hg
    exact h.rxByPhase_has_next hmode hgrid b
  | wireRleRun0 len | wireRleRun1 len => exact h.run_token_has_next ha _
  | _ => exact ⟨_, rfl⟩

/-! ### Taking an offer -/

theorem accepts_takeOffer (i : Instr) (c : Channel) (rest : List Channel) (s : State) :
    accepts i (takeOffer c rest s) = accepts i s := rfl

/-- The invariant speaks of no offer and of no schedule. -/
theorem Inv.takeOffer {s : State} (h : Inv s) (c : Channel) (rest : List Channel) : Inv (takeOffer c rest s) :=
  { h with }

/-- Accepting a transfer on one channel leaves the whole queue of every other. -/
theorem Offers.pop_other (o : Offers) (c : Channel) :
    (c ≠ .cmd → (o.pop c).cmd = o.cmd) ∧ (c ≠ .keyin → (o.pop c).keyin = o.keyin) ∧
    (c ≠ .gridin → (o.pop c).gridin = o.gridin) ∧ (c ≠ .pixin → (o.pop c).pixin = o.pixin) ∧
    (c ≠ .rx → (o.pop c).rx = o.rx) ∧ (c ≠ .errin → (o.pop c).errin = o.errin) := by
  cases c <;> simp [Offers.pop]

/-- After a step the offers are those of before with one transfer taken, of a channel that could be served. -/
theorem step_offers {s t : State} (h : step s = .next t) :
    ∃ c, acceptable s c ≠ none ∧ t.offers = s.offers.pop c := by
  obtain ⟨c, rest, i, ha, hexec⟩ := step_cases h
  obtain ⟨_, _, _, _, hoffers, _, _⟩ := exec_grows hexec
  exact ⟨c, by simp [ha], hoffers⟩

theorem Inv.step_has_next {s : State} (h : Inv s) {c : Channel} {i : Instr} (hc : acceptable s c = some i) :
    ∃ t, step s = .next t := by
  unfold step
  split
  next hnone => simp [nextOperation_none.1 hnone c] at hc
  next j s1 hsome =>
    obtain ⟨d, rest, hd, rfl⟩ := nextOperation_some hsome
    obtain ⟨_, _, _, ha⟩ := acceptable_some.1 hd
    exact (h.takeOffer d rest).exec_has_next ((accepts_takeOffer j d rest s).trans ha)

/-- Settles O54: `Inv.step_has_next` for progress; what waits is left by `step_offers`, since the channel served is
another one. -/
theorem anOfferNeverStopsTheBlock : Obligations.AnOfferNeverStopsTheBlock := by
  refine fun s h => ⟨fun ⟨c, i, hc⟩ => h.step_has_next hc, step_of_nothing_acceptable, fun t ht => ?_⟩
  obtain ⟨c, hc, hoffers⟩ := step_offers ht
  have other {d : Channel} (hd : acceptable s d = none) : c ≠ d := fun e => hc (e ▸ hd)
  obtain ⟨cmd, keyin, gridin, pixin, rx, errin⟩ := s.offers.pop_other c
  rw [hoffers]
  exact ⟨cmd ∘ other, keyin ∘ other, gridin ∘ other, pixin ∘ other, rx ∘ other, errin ∘ other⟩

end Sys2Proof.Machine
end

section
/-! SUPPORT. What an accepted operation does with its guard taken apart, the invariant as a table over the modes and
phases, and that every operation keeps it (10_state.md R22 to R24, R36). -/

namespace Sys2Proof.Machine

/-! ### What an operation does, with its guard taken apart -/

/-- The container byte an operation on RX carries: RX.BYTE's own, and a wire token's (30_encoding.md R80). -/
def rxByteOf : Instr → Option Byte
  | .rxByte b => some b
  | .wireMagic0 => some 0x61#8
  | .wireMagic1 => some 0x6B#8
  | .wireMagic2 => some 0x2D#8
  | .wireMagic3 => some 0x63#8
  | .wireWidth v => some v
  | .wireHeight v => some v
  | .wireFps v => some v
  | .wireContChunk => some 0x00#8
  | .wireContEnd => some 0x01#8
  | .wireTypeVideo => some 0x00#8
  | .wireKsize v => some v
  | .wireKey b => some b
  | .wireRleRun0 len => some (rleByte false len)
  | .wireRleRun1 len => some (rleByte true len)
  | _ => none

/-- The ways an operation makes a next state, each with what its guard says of the mode and the phase. The operations
on RX that carry a byte are one case: a token does what RX.BYTE of its byte does. Tied to `exec` by `ran_of_exec`. -/
inductive Ran (s : State) : Instr → State → Prop
  | cfgWr (n : Byte) (v : Word) (hmode : s.mode = .idle) : Ran s (.cfgWr n v) (writeCR n.toNat v s)
  | cfgRd (n : Byte) : Ran s (.cfgRd n) (emitRsp (readCR s n.toNat) s)
  | accRd (k : Word) : Ran s (.accRd k) (emitRsp ((accRead s k.toNat).setWidth 32) s)
  | startEnc (hmode : s.mode = .idle) (hcfg : cfgCheck s = 0#8) : Ran s .startEnc (openEnc s)
  | startEncError (hmode : s.mode = .idle) (hcfg : cfgCheck s ≠ 0#8) :
      Ran s .startEnc (raise .configError (cfgCheck s) 0#8 s)
  | startDec (hmode : s.mode = .idle) : Ran s .startDec { s with
      W := 0#32, H := 0#32, FPS := 0#16, mode := .dec, phase := .dHdr, sub := 0#32, frame := 0#32, p := 0#32 }
  | frameBegin (k : Word) (hmode : s.mode = .enc) (hphase : s.phase = .eFrame) :
      Ran s (.frameBegin k) { emitOut (chunkBytes k) s with
        keysize := k, sub := 0#32, phase := if k = 0#32 then .eGrid else .eKey }
  | endEnc (hmode : s.mode = .enc) (hphase : s.phase = .eFrame) :
      Ran s .endEnc { emitOut [endMarker] s with mode := .done, phase := .pNone }
  | reset : Ran s .reset (resetState s)
  | keyByte (b : Byte) (hmode : s.mode = .enc) (hphase : s.phase = .eKey) : Ran s (.keyByte b) (passKeyByte b s)
  | gridLd (c : Rgb) (hplace : (s.mode = .enc ∧ s.phase = .eGrid) ∨ (s.mode = .dec ∧ s.phase = .dGrid)) :
      Ran s (.gridLd c) (loadCell c s)
  | pixEnc (c : Rgb) (hmode : s.mode = .enc) (hphase : s.phase = .ePix) : Ran s (.pixEnc c) (encodePixel c s)
  | rxEosError (hmode : s.mode = .dec) :
      Ran s .rxEos (raise (if s.phase = .dRle then .rleUnderrun else .truncatedStream) 0#8 0#8 s)
  | rxEosIgnored (hmode : s.mode ≠ .dec) : Ran s .rxEos s
  | sigErr (k : BitVec 2) (hmode : s.mode = .enc ∨ s.mode = .dec) :
      Ran s (.sigErr k) (raise (signalledError k) 0#8 0#8 s)
  | sigErrIgnored (k : BitVec 2) (hmode : ¬ inSession s = true) : Ran s (.sigErr k) s
  | rx {i : Instr} {b : Byte} {t : State} (hbyte : rxByteOf i = some b) (hmode : s.mode = .dec)
      (hrx : rxByPhase b s = .next t) : Ran s i t

theorem guardWire_iff {ph : Phase} {lo hi : Nat} {s : State} :
    guardWire ph lo hi s = true ↔ s.mode = .dec ∧ s.phase = ph ∧ lo ≤ s.sub.toNat ∧ s.sub.toNat ≤ hi := by
  simp [guardWire, and_assoc]

theorem inSession_iff {s : State} : inSession s = true ↔ s.mode = .enc ∨ s.mode = .dec := by
  simp [inSession]

/-- An accepted operation that carries a byte on RX does what RX.BYTE of its byte does (44_container_reader.md R172). -/
theorem accepted_rx {i : Instr} {s : State} {b : Byte} (ha : accepts i s = true) (hb : rxByteOf i = some b) :
    s.mode = .dec ∧ effect i s = rxByPhase b s := by
  cases i with
  | cfgWr | cfgRd | accRd | startEnc | startDec | frameBegin | endEnc | reset | keyByte | gridLd | pixEnc | rxEos
  | sigErr => cases hb
  | rxByte c =>
    cases hb
    exact ⟨by simp_all [accepts, guardRxByte], rfl⟩
  | _ =>
    cases hb
    obtain ⟨hmode, hphase, _⟩ := guardWire_iff.1 ha
    exact ⟨hmode, by simp [effect, rxByPhase, hphase]⟩

/-- Every next state of `exec` is one of the ways of `Ran`. -/
theorem ran_of_exec {i : Instr} {s t : State} (h : exec i s = .next t) : Ran s i t := by
  obtain ⟨ha, he⟩ := exec_next.1 h
  cases i with
  | cfgWr n v =>
    cases he
    simp only [accepts, guardCfgWr, Bool.and_eq_true, decide_eq_true_eq] at ha
    exact .cfgWr n v ha.1
  | cfgRd n => cases he; exact .cfgRd n
  | accRd k => cases he; exact .accRd k
  | startEnc =>
    cases he
    have hmode : s.mode = .idle := by simpa [accepts, guardStartEnc] using ha
    split
    · exact .startEnc hmode ‹_›
    · exact .startEncError hmode ‹_›
  | startDec => cases he; exact .startDec (by simpa [accepts, guardStartDec] using ha)
  | frameBegin k =>
    cases he
    obtain ⟨hmode, hphase⟩ : s.mode = .enc ∧ s.phase = .eFrame := by simpa [accepts, guardFrameBegin] using ha
    exact .frameBegin k hmode hphase
  | endEnc =>
    cases he
    obtain ⟨hmode, hphase⟩ : s.mode = .enc ∧ s.phase = .eFrame := by simpa [accepts, guardEndEnc] using ha
    exact .endEnc hmode hphase
  | reset => cases he; exact .reset
  | keyByte b =>
    cases he
    obtain ⟨hmode, hphase⟩ : s.mode = .enc ∧ s.phase = .eKey := by simpa [accepts, guardKeyByte] using ha
    exact .keyByte b hmode hphase
  | gridLd c =>
    unfold effect at he
    dsimp only at he
    split at he
    · cases he
      exact .gridLd c (by simpa [accepts, guardGridLd] using ha)
    · cases he
  | pixEnc c =>
    obtain ⟨_, he⟩ := withCells_next.1 he
    cases he
    obtain ⟨hmode, hphase⟩ : s.mode = .enc ∧ s.phase = .ePix := by simpa [accepts, guardPixEnc] using ha
    exact .pixEnc c hmode hphase
  | rxEos =>
    cases he
    split
    · exact .rxEosError ‹_›
    · exact .rxEosIgnored ‹_›
  | sigErr k =>
    cases he
    split
    · exact .sigErr k (inSession_iff.1 ‹_›)
    · exact .sigErrIgnored k ‹_›
  | rxByte | wireMagic0 | wireMagic1 | wireMagic2 | wireMagic3 | wireWidth | wireHeight | wireFps | wireContChunk
  | wireContEnd | wireTypeVideo | wireKsize | wireKey | wireRleRun0 | wireRleRun1 =>
    obtain ⟨hmode, heffect⟩ := accepted_rx ha rfl
    exact .rx rfl hmode (heffect ▸ he)

/-- What a header byte does, with the three registers it may fill left open: the magic is wrong, or the reader goes on
(44_container_reader.md R173). -/
theorem rxHeader_outcome (b : Byte) (s : State) :
    (∃ x, rxHeader b s = raise .badMagic x b s) ∨
    ∃ w h f, rxHeader b s = advanceHeader { s with W := w, H := h, FPS := f } := by
  rcases rxHeader_cases b s with ⟨_, _, h⟩ | ⟨_, _, h⟩ | ⟨_, _, h⟩ | ⟨_, _, h⟩ | ⟨_, h⟩
  · exact .inl ⟨_, h⟩
  all_goals exact .inr ⟨_, _, _, h⟩

/-! ### The invariant, place by place (10_state.md R23, R24, R36) -/

/-- The clauses of `Inv` that do not depend on the mode and the phase. -/
def Formed (s : State) : Prop := s.acc.wf accZero = true ∧ s.grid.wf gridZero = true ∧ s.runLen.toNat ≤ 126

/-- No error is held, as in every mode but FAULT. -/
def NoError (s : State) : Prop := s.err = .noError ∧ s.errinfo = 0#16

/-- No run is open and the cursor is at the first pixel, as everywhere but in the pixel phases. -/
def AtRest (s : State) : Prop := s.runLen = 0#7 ∧ s.p = 0#32

/-- The clauses of `Inv` for one mode and one phase; the pairs that are not listed do not belong together (R23). -/
def PlaceOk (s : State) : Mode → Phase → Prop
  | .fault, _ => s.err ≠ .noError
  | .idle, .pNone => NoError s ∧ AtRest s ∧ s.sub = 0#32
  | .done, .pNone => NoError s ∧ AtRest s ∧ s.sub = 0#32
  | .enc, .eFrame => NoError s ∧ AtRest s ∧ cfgCheck s = 0#8 ∧ s.sub = 0#32
  | .enc, .eKey => NoError s ∧ AtRest s ∧ cfgCheck s = 0#8 ∧ s.sub.toNat < s.keysize.toNat
  | .enc, .eGrid => NoError s ∧ AtRest s ∧ cfgCheck s = 0#8 ∧ s.sub.toNat < s.NC
  | .enc, .ePix => NoError s ∧ s.runLen.toNat ≤ s.p.toNat ∧ s.p.toNat < s.N ∧ cfgCheck s = 0#8 ∧ s.sub = 0#32
  | .dec, .dHdr => NoError s ∧ AtRest s ∧ s.sub.toNat < 14
  | .dec, .dCont => NoError s ∧ AtRest s ∧ cfgCheck s = 0#8 ∧ s.sub = 0#32
  | .dec, .dType => NoError s ∧ AtRest s ∧ cfgCheck s = 0#8 ∧ s.sub = 0#32
  | .dec, .dKsize => NoError s ∧ AtRest s ∧ cfgCheck s = 0#8 ∧ s.sub.toNat < 4
  | .dec, .dKey => NoError s ∧ AtRest s ∧ cfgCheck s = 0#8 ∧ s.sub.toNat < s.keysize.toNat
  | .dec, .dGrid => NoError s ∧ AtRest s ∧ cfgCheck s = 0#8 ∧ s.sub.toNat < s.NC
  | .dec, .dRle => NoError s ∧ s.runLen = 0#7 ∧ s.p.toNat < s.N ∧ cfgCheck s = 0#8 ∧ s.sub = 0#32
  | _, _ => False

theorem Inv.formed {s : State} (h : Inv s) : Formed s := ⟨h.accForm, h.gridForm, h.runBound⟩

theorem Inv.noError {s : State} (h : Inv s) (hmode : s.mode ≠ .fault) : NoError s :=
  ⟨by_contra fun e => hmode (h.errMode.1 e), h.errInfo hmode⟩

theorem Inv.atRest {s : State} (h : Inv s) (hmode : s.mode ≠ .fault) (henc : s.phase ≠ .ePix) (hdec : s.phase ≠ .dRle) :
    AtRest s :=
  ⟨h.runClosed henc hmode, h.cursorZero hmode henc hdec⟩

/-- `Inv` gives the clauses of the place the block is at. -/
theorem Inv.placeOk {s : State} (h : Inv s) {m : Mode} {ph : Phase} (hmode : s.mode = m) (hphase : s.phase = ph) :
    PlaceOk s m ph := by
  by_cases hfault : s.mode = .fault
  · cases hmode.symm.trans hfault
    exact h.errMode.2 hfault
  have herr := h.noError hfault
  have hrest := h.atRest hfault
  have hsub := h.subZero hfault
  cases m with
  | fault => exact absurd hmode hfault
  | idle | done =>
    cases hphase.symm.trans (h.idlePhase (by simp [hmode]))
    exact ⟨herr, hrest (by simp [hphase]) (by simp [hphase]), hsub (by simp [hphase])⟩
  | enc =>
    have hcfg := h.config (.inl hmode)
    have hsession : inSession s = true := inSession_iff.2 (.inl hmode)
    have hplace := h.encPhases hmode
    rw [hphase] at hplace hrest hsub
    cases ph with
    | eFrame => exact ⟨herr, hrest (by simp) (by simp), hcfg, hsub (by simp)⟩
    | eKey => exact ⟨herr, hrest (by simp) (by simp), hcfg, h.subKey hsession (.inl hphase)⟩
    | eGrid => exact ⟨herr, hrest (by simp) (by simp), hcfg, h.subGrid hsession (.inl hphase)⟩
    | ePix => exact ⟨herr, h.runCursor hmode hphase, h.cursorIn hsession (.inl hphase), hcfg, hsub (by simp)⟩
    | _ => cases hplace
  | dec =>
    have hcfg : ph ≠ .dHdr → cfgCheck s = 0#8 := fun hne => h.config (.inr ⟨hmode, hphase ▸ hne⟩)
    have hsession : inSession s = true := inSession_iff.2 (.inr hmode)
    have hplace := h.decPhases hmode
    rw [hphase] at hplace hrest hsub
    cases ph with
    | dHdr => exact ⟨herr, hrest (by simp) (by simp), h.subHdr hmode hphase⟩
    | dCont | dType => exact ⟨herr, hrest (by simp) (by simp), hcfg (by simp), hsub (by simp)⟩
    | dKsize => exact ⟨herr, hrest (by simp) (by simp), hcfg (by simp), h.subKsize hmode hphase⟩
    | dKey => exact ⟨herr, hrest (by simp) (by simp), hcfg (by simp), h.subKey hsession (.inr hphase)⟩
    | dGrid => exact ⟨herr, hrest (by simp) (by simp), hcfg (by simp), h.subGrid hsession (.inr hphase)⟩
    | dRle =>
      have hrun := h.runClosed (by simp [hphase]) hfault
      exact ⟨herr, hrun, h.cursorIn hsession (.inr hphase), hcfg (by simp), hsub (by simp)⟩
    | _ => cases hplace

/-- The clauses of the place the block is at, with those of every place, are the whole of `Inv`. -/
theorem Inv.of_placeOk {s : State} {m : Mode} {ph : Phase} (hmode : s.mode = m) (hphase : s.phase = ph)
    (hf : Formed s) (h : PlaceOk s m ph) : Inv s := by
  obtain ⟨hacc, hgrid, hrun⟩ := hf
  -- the pairs that do not belong together have no row
  cases m <;> cases ph <;> simp only [PlaceOk, NoError, AtRest] at h
  -- a clause of `Inv` speaks of another place, or stands in the row
  all_goals constructor <;> simp [*, encPhase, decPhase, inSession]

/-! ### Every operation keeps the invariant -/

/-- A counter below its end that does not reach it stays below it. -/
theorem toNat_succ_lt {v : Word} {n : Nat} (h : v.toNat < n) (hne : (v + 1#32).toNat ≠ n) : (v + 1#32).toNat < n := by
  rw [BitVec.toNat_add] at *
  simp only [BitVec.toNat_ofNat] at *
  omega

theorem Inv.raise {s : State} (h : Inv s) {e : ErrCode} (he : e ≠ .noError) (x y : Byte) : Inv (raise e x y s) :=
  .of_placeOk (m := .fault) rfl rfl h.formed he

theorem Inv.resetState (s : State) : Inv (resetState s) :=
  .of_placeOk (m := .idle) (ph := .pNone) rfl rfl ⟨rfl, rfl, by simp⟩ ⟨⟨rfl, rfl⟩, ⟨rfl, rfl⟩, rfl⟩

theorem Inv.emitRsp {s : State} (h : Inv s) (v : Word) : Inv (emitRsp v s) := { h with }

/-- In IDLE the invariant says nothing of the configuration. -/
theorem Inv.writeCR {s : State} (h : Inv s) (hmode : s.mode = .idle) (n : Nat) (v : Word) : Inv (writeCR n v s) := by
  have hphase := h.idlePhase (.inl hmode)
  have hplace := h.placeOk hmode hphase
  rcases writeCR_cases n v s with ⟨_, e⟩ | ⟨_, e⟩ | ⟨_, e⟩ | ⟨_, e⟩ | ⟨_, e⟩ <;> rw [e]
  case inr.inr.inr.inr => exact h
  all_goals exact .of_placeOk hmode hphase h.formed hplace

theorem Inv.openEnc {s : State} (h : Inv s) (hmode : s.mode = .idle) (hcfg : cfgCheck s = 0#8) : Inv (openEnc s) := by
  obtain ⟨herr, ⟨hrun, _⟩, _⟩ := h.placeOk hmode (h.idlePhase (.inl hmode))
  rw [openEnc_eq]
  exact .of_placeOk (m := .enc) (ph := .eFrame) rfl rfl ⟨Memory.clearBelow_wf _ h.accForm _, h.gridForm, h.runBound⟩
    ⟨herr, ⟨hrun, rfl⟩, hcfg, rfl⟩

theorem Inv.passKeyByte {s : State} (h : Inv s) (hmode : s.mode = .enc) (hphase : s.phase = .eKey) (b : Byte) :
    Inv (passKeyByte b s) := by
  obtain ⟨herr, hrest, hcfg, hsub⟩ := h.placeOk hmode hphase
  rcases passKeyByte_cases b s with ⟨hne, e⟩ | ⟨_, e⟩ <;> rw [e]
  · exact .of_placeOk hmode hphase h.formed
      ⟨herr, hrest, hcfg, toNat_succ_lt hsub fun e => hne (BitVec.eq_of_toNat_eq e)⟩
  · exact .of_placeOk (ph := .eGrid) hmode rfl h.formed ⟨herr, hrest, hcfg, (cfgCheck_bounds hcfg).2.2.1⟩

/-- A cell keeps the block in its grid phase, or opens the pixel phase of its session. -/
theorem Inv.loadCell {s : State} (h : Inv s)
    (hplace : (s.mode = .enc ∧ s.phase = .eGrid) ∨ (s.mode = .dec ∧ s.phase = .dGrid)) (c : Rgb) :
    Inv (loadCell c s) := by
  have hgrid := Memory.write_wf gridZero h.gridForm s.sub.toNat c
  rcases hplace with ⟨hmode, hphase⟩ | ⟨hmode, hphase⟩ <;>
    obtain ⟨herr, ⟨hrun, hp⟩, hcfg, hsub⟩ := h.placeOk hmode hphase <;>
    obtain ⟨hN, _⟩ := cfgCheck_bounds hcfg <;>
    rcases loadCell_cases c s with ⟨hne, e⟩ | ⟨_, e⟩ <;> rw [e]
  · exact .of_placeOk hmode hphase ⟨h.accForm, hgrid, h.runBound⟩ ⟨herr, ⟨hrun, hp⟩, hcfg, toNat_succ_lt hsub hne⟩
  · exact .of_placeOk (ph := .ePix) hmode (if_pos hmode) ⟨h.accForm, hgrid, h.runBound⟩
      ⟨herr, by simp [hrun], hN, hcfg, rfl⟩
  · exact .of_placeOk hmode hphase ⟨h.accForm, hgrid, h.runBound⟩ ⟨herr, ⟨hrun, hp⟩, hcfg, toNat_succ_lt hsub hne⟩
  · exact .of_placeOk (ph := .dRle) hmode (if_neg (by simp [hmode])) ⟨h.accForm, hgrid, h.runBound⟩
      ⟨herr, hrun, hN, hcfg, rfl⟩

/-- A push makes the open run at most one longer (42_rle.md R131). -/
theorem rlePush_runLen_le (bit : Bool) (s : State) : (rlePush bit s).runLen.toNat ≤ s.runLen.toNat + 1 := by
  obtain ⟨t, ht, hcases⟩ := rlePush_cases bit s
  have hlen : t.runLen.toNat ≤ s.runLen.toNat + 1 := by
    rcases hcases with ⟨_, rfl⟩ | ⟨_, _, rfl⟩ | ⟨_, _, rfl⟩
    · simp
    · simp only [BitVec.toNat_add, BitVec.toNat_ofNat]
      omega
    · simp
  rw [ht]
  split
  · simp
  · exact hlen

/-- A pixel keeps the open run below 127 and makes it at most one longer (41_delta.md R115, 42_rle.md R131). -/
theorem encodePixel_runLen_le (c : Rgb) (s : State) :
    (encodePixel c s).runLen.toNat ≤ 126 ∧ (encodePixel c s).runLen.toNat ≤ s.runLen.toNat + 1 := by
  unfold encodePixel
  dsimp only
  rcases endFrameEnc_cases (advanceP (rlePush (deltaBit s c) (accBump s.p.toNat (deltaBit s c) s)))
    with ⟨_, e⟩ | ⟨_, _, _, e⟩ <;> rw [e]
  · exact ⟨rlePush_runBound _ _, rlePush_runLen_le _ _⟩
  · simp

theorem Inv.encodePixel {s : State} (h : Inv s) (hmode : s.mode = .enc) (hphase : s.phase = .ePix) (c : Rgb) :
    Inv (encodePixel c s) := by
  obtain ⟨herr, hrun, hp, hcfg, hsub⟩ := h.placeOk hmode hphase
  obtain ⟨_, hN, _⟩ := cfgCheck_bounds hcfg
  have hacc := Memory.write_wf accZero h.accForm s.p.toNat (bump (accRead s s.p.toNat) (deltaBit s c))
  have hsucc : (s.p + 1#32).toNat = s.p.toNat + 1 := by
    simp only [BitVec.toNat_add, BitVec.toNat_ofNat]
    omega
  obtain ⟨hbound, hlen⟩ := encodePixel_runLen_le c s
  obtain ⟨o, f, l, _, ⟨hne, e⟩ | ⟨_, e⟩⟩ := encodePixel_frame c s <;> rw [e] at hbound hlen ⊢
  · have hlen : l.toNat ≤ s.runLen.toNat + 1 := hlen
    have hrun : l.toNat ≤ (s.p + 1#32).toNat := by omega
    exact .of_placeOk hmode hphase ⟨hacc, h.gridForm, hbound⟩ ⟨herr, hrun, toNat_succ_lt hp hne, hcfg, hsub⟩
  · exact .of_placeOk (ph := .eFrame) hmode rfl ⟨hacc, h.gridForm, hbound⟩ ⟨herr, ⟨rfl, rfl⟩, hcfg, hsub⟩

theorem Inv.advanceHeader {s : State} (h : Inv s) (hmode : s.mode = .dec) (hphase : s.phase = .dHdr) :
    Inv (advanceHeader s) := by
  obtain ⟨herr, hrest, hsub⟩ := h.placeOk hmode hphase
  rcases advanceHeader_cases s with ⟨hne, e⟩ | ⟨_, _, e⟩ | ⟨_, hcfg, e⟩ <;> rw [e]
  · exact .of_placeOk hmode hphase h.formed
      ⟨herr, hrest, toNat_succ_lt hsub fun e => hne (BitVec.eq_of_toNat_eq e)⟩
  · exact .of_placeOk (m := .fault) rfl rfl h.formed (by simp [PlaceOk])
  · exact .of_placeOk (ph := .dCont) hmode rfl ⟨Memory.clearBelow_wf _ h.accForm _, h.gridForm, h.runBound⟩
      ⟨herr, hrest, hcfg, rfl⟩

theorem Inv.rxHeader {s : State} (h : Inv s) (hmode : s.mode = .dec) (hphase : s.phase = .dHdr) (b : Byte) :
    Inv (rxHeader b s) := by
  rcases rxHeader_outcome b s with ⟨x, e⟩ | ⟨w, ht, f, e⟩ <;> rw [e]
  · exact h.raise (by simp) x b
  · have hfilled : Inv { s with W := w, H := ht, FPS := f } :=
      .of_placeOk hmode hphase h.formed (h.placeOk hmode hphase)
    exact hfilled.advanceHeader hmode hphase

theorem Inv.rxCont {s : State} (h : Inv s) (hmode : s.mode = .dec) (hphase : s.phase = .dCont) (b : Byte) :
    Inv (rxCont b s) := by
  obtain ⟨herr, hrest, hcfg, hsub⟩ := h.placeOk hmode hphase
  rcases rxCont_cases b s with ⟨_, e⟩ | ⟨_, e⟩ | ⟨_, _, e⟩ <;> rw [e]
  · exact .of_placeOk (ph := .dType) hmode rfl h.formed ⟨herr, hrest, hcfg, hsub⟩
  · exact .of_placeOk (m := .done) (ph := .pNone) rfl rfl h.formed ⟨herr, hrest, hsub⟩
  · exact h.raise (by simp) _ _

theorem Inv.rxType {s : State} (h : Inv s) (hmode : s.mode = .dec) (hphase : s.phase = .dType) (b : Byte) :
    Inv (rxType b s) := by
  obtain ⟨herr, hrest, hcfg, hsub⟩ := h.placeOk hmode hphase
  rcases rxType_cases b s with ⟨_, e⟩ | ⟨_, e⟩ <;> rw [e]
  · exact .of_placeOk (ph := .dKsize) hmode rfl h.formed ⟨herr, hrest, hcfg, Nat.zero_lt_succ 3⟩
  · exact h.raise (by simp) _ _

/-- A key phase opens before its last byte: its size is not 0 (R23). -/
theorem toNat_pos_of_ne_zero {k : Word} (hk : k ≠ 0#32) : 0 < k.toNat :=
  Nat.pos_of_ne_zero fun e => hk (BitVec.eq_of_toNat_eq e)

theorem Inv.rxKsize {s : State} (h : Inv s) (hmode : s.mode = .dec) (hphase : s.phase = .dKsize) (b : Byte) :
    Inv (rxKsize b s) := by
  obtain ⟨herr, hrest, hcfg, hsub⟩ := h.placeOk hmode hphase
  obtain ⟨_, _, hNC, _⟩ := cfgCheck_bounds hcfg
  rcases rxKsize_cases b s with ⟨hne, e⟩ | ⟨_, e⟩ <;> rw [e]
  · exact .of_placeOk hmode hphase h.formed
      ⟨herr, hrest, hcfg, toNat_succ_lt hsub fun e => hne (BitVec.eq_of_toNat_eq e)⟩
  · split
    · exact .of_placeOk (ph := .dGrid) hmode rfl h.formed ⟨herr, hrest, hcfg, hNC⟩
    · exact .of_placeOk (ph := .dKey) hmode rfl h.formed ⟨herr, hrest, hcfg, toNat_pos_of_ne_zero ‹_›⟩

theorem Inv.rxKey {s : State} (h : Inv s) (hmode : s.mode = .dec) (hphase : s.phase = .dKey) (b : Byte) :
    Inv (rxKey b s) := by
  obtain ⟨herr, hrest, hcfg, hsub⟩ := h.placeOk hmode hphase
  rcases rxKey_cases b s with ⟨hne, e⟩ | ⟨_, e⟩ <;> rw [e]
  · exact .of_placeOk hmode hphase h.formed
      ⟨herr, hrest, hcfg, toNat_succ_lt hsub fun e => hne (BitVec.eq_of_toNat_eq e)⟩
  · exact .of_placeOk (ph := .dGrid) hmode rfl h.formed ⟨herr, hrest, hcfg, (cfgCheck_bounds hcfg).2.2.1⟩

/-- A run that fits in the frame keeps the cursor inside it, or completes it. -/
theorem Inv.run_fits {s : State} (h : Inv s) (hmode : s.mode = .dec) (hphase : s.phase = .dRle) {n : Nat} (bit : Bool)
    (hn : s.p.toNat + n ≤ s.N) : Inv (endFrameDec (decPixels n bit s)) := by
  obtain ⟨herr, hrun, _, hcfg, hsub⟩ := h.placeOk hmode hphase
  obtain ⟨_, hN, _⟩ := cfgCheck_bounds hcfg
  have hacc := decPixels_wf n bit s h.accForm
  obtain ⟨A, L, _, e⟩ := decPixels_frame n bit s
  rw [e] at hacc ⊢
  have hp : (s.p + BitVec.ofNat 32 n).toNat = s.p.toNat + n := by
    simp only [BitVec.toNat_add, BitVec.toNat_ofNat]
    omega
  rcases endFrameDec_cases { s with acc := A, lumout := L, p := s.p + BitVec.ofNat 32 n }
    with ⟨hne, e⟩ | ⟨_, e⟩ <;> rw [e]
  · have hlt : (s.p + BitVec.ofNat 32 n).toNat < s.N := lt_of_le_of_ne (hp ▸ hn) hne
    exact .of_placeOk hmode hphase ⟨hacc, h.gridForm, h.runBound⟩ ⟨herr, hrun, hlt, hcfg, hsub⟩
  · exact .of_placeOk (ph := .dCont) hmode rfl ⟨hacc, h.gridForm, h.runBound⟩ ⟨herr, ⟨hrun, rfl⟩, hcfg, hsub⟩

theorem Inv.rxRun {s t : State} (h : Inv s) (hmode : s.mode = .dec) (hphase : s.phase = .dRle) {b : Byte}
    (hrun : rxRun b s = .next t) : Inv t := by
  rcases rxRun_cases hrun with ⟨_, rfl⟩ | ⟨_, _, rfl⟩ | ⟨_, hcells, rfl⟩
  · exact h.raise (by simp) _ _
  · exact h.raise (by simp) _ _
  · exact h.run_fits hmode hphase _ (cellsExist_iff.1 hcells).1

theorem Inv.rxByPhase {s t : State} (h : Inv s) (hmode : s.mode = .dec) {b : Byte} (hrx : rxByPhase b s = .next t) :
    Inv t := by
  rcases rxByPhase_cases hrx with ⟨hp, rfl⟩ | ⟨hp, rfl⟩ | ⟨hp, rfl⟩ | ⟨hp, rfl⟩ | ⟨hp, rfl⟩ | ⟨hp, hrun⟩
  · exact h.rxHeader hmode hp b
  · exact h.rxCont hmode hp b
  · exact h.rxType hmode hp b
  · exact h.rxKsize hmode hp b
  · exact h.rxKey hmode hp b
  · exact h.rxRun hmode hp hrun

/-- Every operation keeps the invariant. -/
theorem Inv.exec {s t : State} (h : Inv s) {i : Instr} (hexec : exec i s = .next t) : Inv t := by
  cases ran_of_exec hexec with
  | cfgWr n v hmode => exact h.writeCR hmode _ v
  | cfgRd | accRd => exact h.emitRsp _
  | startEnc hmode hcfg => exact h.openEnc hmode hcfg
  | startEncError => exact h.raise (by simp) _ _
  | startDec hmode =>
    obtain ⟨herr, ⟨hrun, _⟩, _⟩ := h.placeOk hmode (h.idlePhase (.inl hmode))
    exact .of_placeOk (m := .dec) (ph := .dHdr) rfl rfl h.formed ⟨herr, ⟨hrun, rfl⟩, Nat.zero_lt_succ 13⟩
  | frameBegin k hmode hphase =>
    obtain ⟨herr, hrest, hcfg, _⟩ := h.placeOk hmode hphase
    split
    · exact .of_placeOk (ph := .eGrid) hmode rfl h.formed ⟨herr, hrest, hcfg, (cfgCheck_bounds hcfg).2.2.1⟩
    · exact .of_placeOk (ph := .eKey) hmode rfl h.formed ⟨herr, hrest, hcfg, toNat_pos_of_ne_zero ‹_›⟩
  | endEnc hmode hphase =>
    obtain ⟨herr, hrest, _, hsub⟩ := h.placeOk hmode hphase
    exact .of_placeOk (m := .done) (ph := .pNone) rfl rfl h.formed ⟨herr, hrest, hsub⟩
  | reset => exact Inv.resetState s
  | keyByte b hmode hphase => exact h.passKeyByte hmode hphase b
  | gridLd c hplace => exact h.loadCell hplace c
  | pixEnc c hmode hphase => exact h.encodePixel hmode hphase c
  | rxEosError => exact h.raise (by split <;> simp) _ _
  | sigErr k => exact h.raise (by unfold signalledError; split_ifs <;> simp) _ _
  | rxEosIgnored | sigErrIgnored => exact h
  | rx _ hmode hrx => exact h.rxByPhase hmode hrx

/-- Settles O2: the reset state is what RESET leaves of it. -/
theorem resetMeetsTheInvariant : Obligations.ResetMeetsTheInvariant := Inv.resetState State.reset

/-- Settles O53: a step takes an offer, of which the invariant does not speak, and runs an operation, which keeps it. -/
theorem everyStepKeepsTheInvariant : Obligations.EveryStepKeepsTheInvariant := by
  intro s t h hstep
  obtain ⟨c, rest, i, _, hexec⟩ := step_cases hstep
  exact (h.takeOffer c rest).exec hexec

end Sys2Proof.Machine
end

section
/-! SUPPORT. The rules of spec/10_state.md that read the mode, the phase, the bank and the configuration off the ways
an operation runs (R22, R23, R26 to R30), and the acceptance table of spec/45_session_control.md R207. -/

namespace Sys2Proof.Machine

/-! ### Reset, acceptance, STATUS -/

/-- Settles O1: each register is a field of `State.resetWith`, and ACC is not ready in IDLE. -/
theorem resetStateHoldsTheSpecsValues : Obligations.ResetStateHoldsTheSpecsValues :=
  ⟨rfl, rfl, rfl, rfl, rfl, rfl, rfl, rfl, rfl, rfl, rfl, rfl, rfl, rfl, rfl, rfl, fun _ => rfl⟩

theorem accReady_iff {s : State} :
    accReady s = true ↔ s.mode = .enc ∨ s.mode = .done ∨ (s.mode = .dec ∧ s.phase ≠ .dHdr) ∨
      (s.mode = .fault ∧ s.phase ≠ .pNone ∧ s.phase ≠ .dHdr) := by
  cases hmode : s.mode <;> simp [accReady, hmode]

/-- In a session the phase alone says which grid phase it is (10_state.md R23). -/
theorem Inv.guardGridLd_iff {s : State} (h : Inv s) :
    guardGridLd s = true ↔ inSession s = true ∧ (s.phase = .eGrid ∨ s.phase = .dGrid) := by
  have henc : s.mode = .enc → s.phase ≠ .dGrid := fun hmode e => by simpa [encPhase, e] using h.encPhases hmode
  have hdec : s.mode = .dec → s.phase ≠ .eGrid := fun hmode e => by simpa [decPhase, e] using h.decPhases hmode
  simp only [guardGridLd, inSession_iff, Bool.or_eq_true, Bool.and_eq_true, decide_eq_true_eq]
  tauto

theorem kind_le_two_iff (k : BitVec 2) : k.toNat ≤ 2 ↔ k ≠ 3#2 := by
  rw [ne_eq, ← BitVec.toNat_inj, show (3#2).toNat = 3 from rfl]
  omega

/-- Settles O11: the guards, of which GRID.LD's needs the pairing of modes and phases. -/
theorem acceptanceMatrix : Obligations.AcceptanceMatrix := by
  intro s h
  refine ⟨fun n v => ?_, fun n => ?_, fun k => ?_, ?_, ?_, fun k => ?_, ?_, rfl, fun b => ?_, fun c => h.guardGridLd_iff,
    fun c => ?_, fun b => ?_, ?_, fun k => ?_⟩
  · simp [accepts, guardCfgWr]
  · simp [accepts, guardCfgRd]
  · simp only [accepts, guardAccRd, Bool.and_eq_true, decide_eq_true_eq, accReady_iff]
    exact and_comm
  · simp [accepts, guardStartEnc]
  · simp [accepts, guardStartDec]
  · simp [accepts, guardFrameBegin]
  · simp [accepts, guardEndEnc]
  · simp [accepts, guardKeyByte]
  · simp [accepts, guardPixEnc]
  · simp [accepts, guardRxByte]
  · simp [accepts, guardRxEos, or_assoc]
  · simp [accepts, guardSigErr, kind_le_two_iff]

/-- A concatenation is the sum of its parts, each at its place. -/
theorem toNat_append_eq_add {m n : Nat} (x : BitVec m) (y : BitVec n) : (x ++ y).toNat = x.toNat * 2 ^ n + y.toNat := by
  rw [BitVec.toNat_append, ← Nat.shiftLeft_add_eq_or_of_lt y.isLt, Nat.shiftLeft_eq]

/-- STATUS as a sum of its three fields (10_state.md R26). -/
theorem status_toNat (s : State) :
    s.status.toNat = 16 * (phaseCode s.phase).toNat + 8 * (if s.mode = .fault then 1 else 0) + s.mode.code.toNat := by
  have hfault : (BitVec.ofBool s.faultLine).toNat = if s.mode = .fault then 1 else 0 := by
    by_cases h : s.mode = .fault <;> simp [State.faultLine, h]
  rw [State.status, toNat_append_eq_add, toNat_append_eq_add, hfault]
  omega

theorem status_fault_bit (s : State) : s.status.getLsbD 3 = s.faultLine := by
  rw [State.status, BitVec.getLsbD_append, if_neg (by decide), BitVec.getLsbD_append, if_pos (by decide)]
  simp

/-- STATUS of a mode and a phase is the byte with their sum. -/
theorem status_of_place {s : State} {m : Mode} {ph : Phase} {v : Byte} (hmode : s.mode = m) (hphase : s.phase = ph)
    (hv : v.toNat = 16 * (phaseCode ph).toNat + 8 * (if m = .fault then 1 else 0) + m.code.toNat) : s.status = v := by
  subst hmode hphase
  exact BitVec.eq_of_toNat_eq ((status_toNat s).trans hv.symm)

/-- Settles O14: `status_toNat` for every state; the rule's examples follow by `status_of_place`. -/
theorem statusShowsModeFaultAndPhase : Obligations.StatusShowsModeFaultAndPhase :=
  ⟨fun s => ⟨status_toNat s, by simp [State.faultLine], status_fault_bit s⟩,
    fun _ => ⟨fun m p => status_of_place m p rfl, fun m p => status_of_place m p rfl, fun m p => status_of_place m p rfl,
      fun m p => status_of_place m p rfl, fun m p => status_of_place m p rfl, fun m p => status_of_place m p rfl⟩,
    ⟨rfl, rfl, rfl, rfl, rfl⟩, rfl, rfl, rfl, rfl, rfl, rfl, rfl, rfl, rfl, rfl, rfl, rfl⟩

/-! ### Which operation carries a byte on RX where -/

/-- An accepted operation that carries a byte on RX is RX.BYTE, or a token at its place. -/
theorem rx_operation_place {i : Instr} {s : State} {b : Byte} (ha : accepts i s = true) (hb : rxByteOf i = some b) :
    i = .rxByte b ∨ ∃ ph lo hi, tokenPlace i = some (ph, lo, hi) ∧ s.phase = ph ∧ lo ≤ s.sub.toNat ∧ s.sub.toNat ≤ hi := by
  cases i with
  | rxByte c => exact .inl (by simpa [rxByteOf] using hb)
  | cfgWr | cfgRd | accRd | startEnc | startDec | frameBegin | endEnc | reset | keyByte | gridLd | pixEnc | rxEos
  | sigErr => cases hb
  | _ => exact .inr ⟨_, _, _, rfl, (guardWire_iff.1 ha).2⟩

theorem operation_of_end_marker {i : Instr} {s : State} (ha : accepts i s = true) (hb : rxByteOf i = some 0x01#8)
    (hphase : s.phase = .dCont) : i = .rxByte 0x01#8 ∨ i = .wireContEnd := by
  rcases rx_operation_place ha hb with h | ⟨ph, lo, hi, hplace, rfl, _⟩
  · exact .inl h
  · cases i <;> simp_all [tokenPlace, rxByteOf]

theorem operation_of_run_byte {i : Instr} {s : State} {b : Byte} (ha : accepts i s = true) (hb : rxByteOf i = some b)
    (hphase : s.phase = .dRle) :
    (∃ b, i = .rxByte b) ∨ (∃ len, i = .wireRleRun0 len) ∨ ∃ len, i = .wireRleRun1 len := by
  rcases rx_operation_place ha hb with h | ⟨ph, lo, hi, hplace, rfl, _⟩
  · exact .inl ⟨b, h⟩
  · cases i <;> simp_all [tokenPlace]

theorem operation_of_last_header_byte {i : Instr} {s : State} {b : Byte} (ha : accepts i s = true)
    (hb : rxByteOf i = some b) (hphase : s.phase = .dHdr) (hsub : s.sub = 13#32) :
    (∃ b, i = .rxByte b) ∨ ∃ v, i = .wireFps v := by
  rcases rx_operation_place ha hb with h | ⟨ph, lo, hi, hplace, rfl, hlo, hhi⟩
  · exact .inl ⟨b, h⟩
  · cases i <;> simp_all [tokenPlace] <;> omega

/-! ### What a byte on RX does to the mode, the phase, the bank and the configuration -/

/-- The order of the phases of a decode session (10_state.md R23). -/
def rxPhaseOrder : List (Phase × Phase) :=
  [(.dHdr, .dCont), (.dCont, .dType), (.dCont, .pNone), (.dType, .dKsize), (.dKsize, .dKey), (.dKsize, .dGrid),
   (.dKey, .dGrid), (.dRle, .dCont)]

/-- What the byte `b` on RX can do from `s` to `t`, of all that the rules R22, R23, R27 and R30 speak of. -/
structure RxFrame (b : Byte) (s t : State) : Prop where
  mode : t.mode = s.mode ∨ t.mode = .fault ∨ (s.phase = .dCont ∧ b = 0x01#8 ∧ t.mode = .done)
  phase : t.phase = s.phase ∨ (s.phase, t.phase) ∈ rxPhaseOrder
  acc : t.acc = s.acc ∨ s.phase = .dRle ∨ (s.phase = .dHdr ∧ s.sub = 13#32)
  blocksize : t.B = s.B
  config : (t.W = s.W ∧ t.H = s.H ∧ t.FPS = s.FPS) ∨ s.phase = .dHdr

theorem raise_rxFrame (e : ErrCode) (x y : Byte) (b : Byte) (s : State) : RxFrame b s (raise e x y s) := by
  constructor <;> simp

theorem rxHeader_rxFrame {s : State} (hphase : s.phase = .dHdr) (b : Byte) : RxFrame b s (rxHeader b s) := by
  have hlast : s.sub + 1#32 = 14#32 → s.sub = 13#32 := by bv_omega
  rcases rxHeader_outcome b s with ⟨x, e⟩ | ⟨w, h, f, e⟩ <;> rw [e]
  · exact raise_rxFrame _ _ _ b s
  · rcases advanceHeader_cases { s with W := w, H := h, FPS := f } with ⟨_, e⟩ | ⟨_, _, e⟩ | ⟨hend, _, e⟩ <;>
      rw [e] <;> constructor <;> simp_all [rxPhaseOrder]

theorem rxCont_rxFrame {s : State} (hphase : s.phase = .dCont) (b : Byte) : RxFrame b s (rxCont b s) := by
  rcases rxCont_cases b s with ⟨_, e⟩ | ⟨_, e⟩ | ⟨_, _, e⟩ <;> rw [e]
  · constructor <;> simp [hphase, rxPhaseOrder]
  · constructor <;> simp_all [rxPhaseOrder]
  · exact raise_rxFrame _ _ _ b s

theorem rxType_rxFrame {s : State} (hphase : s.phase = .dType) (b : Byte) : RxFrame b s (rxType b s) := by
  rcases rxType_cases b s with ⟨_, e⟩ | ⟨_, e⟩ <;> rw [e]
  · constructor <;> simp [hphase, rxPhaseOrder]
  · exact raise_rxFrame _ _ _ b s

theorem rxKsize_rxFrame {s : State} (hphase : s.phase = .dKsize) (b : Byte) : RxFrame b s (rxKsize b s) := by
  rcases rxKsize_cases b s with ⟨_, e⟩ | ⟨_, e⟩ <;> rw [e]
  · constructor <;> simp
  · split <;> constructor <;> simp [hphase, rxPhaseOrder]

theorem rxKey_rxFrame {s : State} (hphase : s.phase = .dKey) (b : Byte) : RxFrame b s (rxKey b s) := by
  rcases rxKey_cases b s with ⟨_, e⟩ | ⟨_, e⟩ <;> rw [e] <;> constructor <;> simp [hphase, rxPhaseOrder]

theorem rxRun_rxFrame {b : Byte} {s t : State} (hphase : s.phase = .dRle) (h : rxRun b s = .next t) :
    RxFrame b s t := by
  rcases rxRun_cases h with ⟨_, rfl⟩ | ⟨_, _, rfl⟩ | ⟨_, _, rfl⟩
  · exact raise_rxFrame _ _ _ b s
  · exact raise_rxFrame _ _ _ b s
  · obtain ⟨A, L, _, e⟩ := decPixels_frame (rleLength b).toNat (rleFlag b) s
    rw [e]
    rcases endFrameDec_cases { s with acc := A, lumout := L, p := s.p + BitVec.ofNat 32 (rleLength b).toNat }
      with ⟨_, e⟩ | ⟨_, e⟩ <;> rw [e] <;> constructor <;> simp [hphase, rxPhaseOrder]

theorem rxByPhase_rxFrame {b : Byte} {s t : State} (h : rxByPhase b s = .next t) : RxFrame b s t := by
  rcases rxByPhase_cases h with ⟨hp, rfl⟩ | ⟨hp, rfl⟩ | ⟨hp, rfl⟩ | ⟨hp, rfl⟩ | ⟨hp, rfl⟩ | ⟨hp, hrun⟩
  · exact rxHeader_rxFrame hp b
  · exact rxCont_rxFrame hp b
  · exact rxType_rxFrame hp b
  · exact rxKsize_rxFrame hp b
  · exact rxKey_rxFrame hp b
  · exact rxRun_rxFrame hp hrun

/-! ### What the operations on the other channels do to them -/

theorem writeCR_frame (n : Nat) (v : Word) (s : State) :
    (writeCR n v s).mode = s.mode ∧ (writeCR n v s).phase = s.phase ∧ (writeCR n v s).acc = s.acc ∧
    (writeCR n v s).grid = s.grid := by
  rcases writeCR_cases n v s with ⟨_, e⟩ | ⟨_, e⟩ | ⟨_, e⟩ | ⟨_, e⟩ | ⟨_, e⟩ <;> simp [e]

/-- The mode and the configuration are the same. -/
def SameConfig (s t : State) : Prop := t.mode = s.mode ∧ t.B = s.B ∧ t.W = s.W ∧ t.H = s.H ∧ t.FPS = s.FPS

theorem passKeyByte_frame (b : Byte) (s : State) :
    SameConfig s (passKeyByte b s) ∧ (passKeyByte b s).acc = s.acc ∧
    ((passKeyByte b s).phase = s.phase ∨ (passKeyByte b s).phase = .eGrid) := by
  rcases passKeyByte_cases b s with ⟨_, e⟩ | ⟨_, e⟩ <;> simp [e, SameConfig]

theorem loadCell_frame (c : Rgb) (s : State) :
    SameConfig s (loadCell c s) ∧ (loadCell c s).acc = s.acc ∧
    ((loadCell c s).phase = s.phase ∨ (loadCell c s).phase = if s.mode = .enc then .ePix else .dRle) := by
  rcases loadCell_cases c s with ⟨_, e⟩ | ⟨_, e⟩ <;> simp [e, SameConfig]

theorem encodePixel_place (c : Rgb) (s : State) :
    SameConfig s (encodePixel c s) ∧ ((encodePixel c s).phase = s.phase ∨ (encodePixel c s).phase = .eFrame) := by
  obtain ⟨o, f, l, _, ⟨_, e⟩ | ⟨_, e⟩⟩ := encodePixel_frame c s <;> simp [e, SameConfig]

/-! ### The statements -/

/-- Settles O45: the ways of `Ran` that change the mode; on RX they are in `RxFrame.mode`. -/
theorem modesAreEnteredAndLeftAsListed : Obligations.ModesAreEnteredAndLeftAsListed := by
  intro i s t hexec hne
  cases ran_of_exec hexec with
  | cfgWr n v => exact absurd (writeCR_frame n.toNat v s).1.symm hne
  | cfgRd | accRd | rxEosIgnored | sigErrIgnored => exact absurd rfl hne
  | reset => exact .inl ⟨rfl, rfl⟩
  | startEnc hmode hcfg => exact .inr (.inl ⟨hmode, rfl, .inl ⟨hcfg, rfl⟩⟩)
  | startEncError hmode hcfg => exact .inr (.inl ⟨hmode, rfl, .inr ⟨hcfg, rfl⟩⟩)
  | startDec hmode => exact .inr (.inr (.inl ⟨hmode, rfl, rfl⟩))
  | endEnc hmode => exact .inr (.inr (.inr (.inl ⟨hmode, rfl, rfl⟩)))
  | frameBegin => exact absurd rfl hne
  | keyByte b => exact absurd (passKeyByte_frame b s).1.1.symm hne
  | gridLd c => exact absurd (loadCell_frame c s).1.1.symm hne
  | pixEnc c => exact absurd (encodePixel_place c s).1.1.symm hne
  | rxEosError hmode => exact .inr (.inr (.inr (.inr (.inr ⟨.inr hmode, rfl⟩))))
  | sigErr _ hmode => exact .inr (.inr (.inr (.inr (.inr ⟨hmode, rfl⟩))))
  | rx hbyte hmode hrx =>
    rcases (rxByPhase_rxFrame hrx).mode with hsame | hfault | ⟨hphase, rfl, hdone⟩
    · exact absurd hsame.symm hne
    · exact .inr (.inr (.inr (.inr (.inr ⟨.inr hmode, hfault⟩))))
    · have hi := operation_of_end_marker (exec_next.1 hexec).1 hbyte hphase
      exact .inr (.inr (.inr (.inr (.inl ⟨hmode, hphase, hi, hdone⟩))))

/-- Settles O46: the pairs of a decode session are `rxPhaseOrder` and the end of D_GRID. -/
theorem phasesFollowTheirOrder : Obligations.PhasesFollowTheirOrder := by
  intro i s t h hexec hreset hne
  cases ran_of_exec hexec with
  | cfgWr n v => exact absurd (writeCR_frame n.toNat v s).2.1.symm hne
  | cfgRd | accRd | rxEosIgnored | sigErrIgnored | startEncError | rxEosError | sigErr => exact absurd rfl hne
  | reset => exact absurd rfl hreset
  | startEnc hmode | startDec hmode =>
    have hphase := h.idlePhase (.inl hmode)
    simp [hphase, openEnc_eq]
  | endEnc _ hphase => simp [hphase]
  | frameBegin _ _ hphase => split <;> simp [hphase]
  | keyByte b _ hphase =>
    rcases (passKeyByte_frame b s).2.2 with hsame | hgrid
    · exact absurd hsame.symm hne
    · simp [hphase, hgrid]
  | gridLd c hplace =>
    rcases (loadCell_frame c s).2.2 with hsame | hpix
    · exact absurd hsame.symm hne
    · rcases hplace with ⟨hmode, hphase⟩ | ⟨hmode, hphase⟩ <;> simp [hpix, hmode, hphase]
  | pixEnc c _ hphase =>
    rcases (encodePixel_place c s).2 with hsame | hframe
    · exact absurd hsame.symm hne
    · simp [hphase, hframe]
  | rx _ _ hrx =>
    rcases (rxByPhase_rxFrame hrx).phase with hsame | horder
    · exact absurd hsame.symm hne
    · refine List.subset_def.1 ?_ horder
      decide

/-- Settles O47: of the ways of `Ran` in a session, PIX.ENC's and a byte's on RX (`RxFrame.acc`) are left. -/
theorem accumulatorsAreWrittenOnlyByPixels : Obligations.AccumulatorsAreWrittenOnlyByPixels := by
  intro i s t hsession hexec hne
  have hidle : s.mode ≠ .idle := by rcases inSession_iff.1 hsession with h | h <;> simp [h]
  cases ran_of_exec hexec with
  | cfgWr _ _ hmode | startEnc hmode | startEncError hmode | startDec hmode => exact absurd hmode hidle
  | cfgRd | accRd | rxEosIgnored | sigErrIgnored | rxEosError | sigErr | endEnc | frameBegin => exact absurd rfl hne
  | reset => exact .inl rfl
  | keyByte b => exact absurd (passKeyByte_frame b s).2.1 hne
  | gridLd c => exact absurd (loadCell_frame c s).2.1 hne
  | pixEnc c hmode hphase => exact .inr (.inl ⟨hmode, hphase, c, rfl⟩)
  | rx hbyte hmode hrx =>
    have ha := (exec_next.1 hexec).1
    rcases (rxByPhase_rxFrame hrx).acc with hsame | hphase | ⟨hphase, hsub⟩
    · exact absurd hsame hne
    · exact .inr (.inr (.inl ⟨hmode, hphase, operation_of_run_byte ha hbyte hphase⟩))
    · exact .inr (.inr (.inr ⟨hmode, hphase, hsub, operation_of_last_header_byte ha hbyte hphase hsub⟩))

/-- Settles O48: `Ran` writes a configuration register in IDLE, by RESET, or by a header byte (`RxFrame.config`). -/
theorem configurationIsFixedDuringASession : Obligations.ConfigurationIsFixedDuringASession := by
  intro i s t hidle hreset hexec
  cases ran_of_exec hexec with
  | cfgWr _ _ hmode | startEnc hmode | startEncError hmode | startDec hmode => exact absurd hmode hidle
  | cfgRd | accRd | rxEosIgnored | sigErrIgnored | rxEosError | sigErr | endEnc | frameBegin =>
    exact ⟨rfl, .inl ⟨rfl, rfl, rfl⟩⟩
  | reset => exact absurd rfl hreset
  | keyByte b =>
    obtain ⟨_, hB, hconfig⟩ := (passKeyByte_frame b s).1
    exact ⟨hB, .inl hconfig⟩
  | gridLd c =>
    obtain ⟨_, hB, hconfig⟩ := (loadCell_frame c s).1
    exact ⟨hB, .inl hconfig⟩
  | pixEnc c =>
    obtain ⟨_, hB, hconfig⟩ := (encodePixel_place c s).1
    exact ⟨hB, .inl hconfig⟩
  | rx _ hmode hrx =>
    have hframe := rxByPhase_rxFrame hrx
    exact ⟨hframe.blocksize, hframe.config.imp_right fun hphase => ⟨hmode, hphase⟩⟩

end Sys2Proof.Machine
end

section
/-! SUPPORT. What the block cannot see: the accumulators before they are initialised and the grid cells before they are
loaded (10_state.md R30, R33), and for the accumulators the grid (41_delta.md R119). A twin of a state `s` is `s` with
other stores `A` and `G`. -/

namespace Sys2Proof.Machine

/-! ### Twins -/

/-- No guard looks at a store. -/
theorem accepts_stores (i : Instr) (s : State) (A : Memory (BitVec 4)) (G : Memory Rgb) :
    accepts i { s with acc := A, grid := G } = accepts i s := by
  cases i <;> rfl

theorem accReady_of_dec {s : State} (hmode : s.mode = .dec) (hphase : s.phase ≠ .dHdr) : accReady s = true :=
  accReady_iff.2 (.inr (.inr (.inl ⟨hmode, hphase⟩)))

theorem not_accReady_of_idle {s : State} (hmode : s.mode = .idle) : accReady s = false := by
  simp [accReady, hmode]

/-- An error makes nothing readable that was not: in IDLE the phase is P_NONE. -/
theorem Inv.accReady_of_raise {s : State} (h : Inv s) {e : ErrCode} {x y : Byte}
    (hr : accReady (Machine.raise e x y s) = true) : accReady s = true := by
  have hplace : s.phase ≠ .pNone ∧ s.phase ≠ .dHdr := by simpa [accReady_iff] using hr
  have hidle := h.idlePhase
  cases hmode : s.mode <;> simp_all [accReady]

section
variable {s s' : State} {A : Memory (BitVec 4)} {G : Memory Rgb}

/-- An operation that leaves the stores alone, and makes nothing readable or loaded that was not, leaves twins that look
the same. -/
theorem SameSeen.keep {u v : State} (h : SameSeen s { s with acc := A, grid := G }) (hu : u = s')
    (hv : v = { s' with acc := A, grid := G }) (hacc : s'.acc = s.acc) (hgrid : s'.grid = s.grid)
    (hready : accReady s' = true → accReady s = true ∧ s'.N = s.N)
    (hloaded : ∀ g, loaded s' g = true → loaded s g = true) : SameSeen u v := by
  subst hu hv
  refine ⟨rfl, fun hr i hi => ?_, fun g hg => ?_⟩
  · obtain ⟨hready, hN⟩ := hready hr
    have hread := h.acc hready i (hN ▸ hi)
    simpa only [accRead, hacc] using hread
  · have hread := h.grid g (hloaded g hg)
    simpa only [gridRead, hgrid] using hread

theorem SameSeen.raise (h : SameSeen s { s with acc := A, grid := G }) (hinv : Inv s) (e : ErrCode) (x y : Byte) :
    SameSeen (raise e x y s) (Machine.raise e x y { s with acc := A, grid := G }) :=
  h.keep rfl rfl rfl rfl (fun hr => ⟨hinv.accReady_of_raise hr, rfl⟩) fun _ => id

theorem SameSeen.emitRsp (h : SameSeen s { s with acc := A, grid := G }) (v : Word) :
    SameSeen (emitRsp v s) (Machine.emitRsp v { s with acc := A, grid := G }) :=
  h.keep rfl rfl rfl rfl (fun hr => ⟨hr, rfl⟩) fun _ => id

/-- Where every accumulator is set to 0 and no cell is loaded, any twin looks the same. -/
theorem sameSeen_of_cleared {u v : State} (hu : u = s') (hv : v = { s' with acc := A.clearBelow s'.N, grid := G })
    (hacc : s'.acc = s.acc.clearBelow s'.N) (hloaded : ∀ g, loaded s' g = false) : SameSeen u v := by
  subst hu hv
  refine ⟨rfl, fun _ i hi => ?_, fun g hg => by simp [hloaded g] at hg⟩
  calc Memory.read accZero (A.clearBelow u.N) i
      = accZero := Memory.read_clearBelow_lt _ _ hi
    _ = accRead u i := by rw [accRead, hacc, Memory.read_clearBelow_lt _ _ hi]

/-! ### The operations without a pixel or a cell -/

theorem writeCR_stores (n : Nat) (v : Word) (s : State) (A : Memory (BitVec 4)) (G : Memory Rgb) :
    writeCR n v { s with acc := A, grid := G } = { writeCR n v s with acc := A, grid := G } := by
  unfold writeCR
  split <;> rfl

theorem SameSeen.writeCR (h : SameSeen s { s with acc := A, grid := G }) (hinv : Inv s) (hmode : s.mode = .idle)
    (n : Nat) (v : Word) : SameSeen (writeCR n v s) (Machine.writeCR n v { s with acc := A, grid := G }) := by
  obtain ⟨hmode', hphase, hacc, hgrid⟩ := writeCR_frame n v s
  refine h.keep rfl (writeCR_stores n v s A G) hacc hgrid ?_ ?_
  · simp [not_accReady_of_idle (hmode'.trans hmode)]
  · simp [loaded, hphase, hinv.idlePhase (.inl hmode)]

theorem SameSeen.passKeyByte (h : SameSeen s { s with acc := A, grid := G }) (hmode : s.mode = .enc)
    (hphase : s.phase = .eKey) (b : Byte) :
    SameSeen (passKeyByte b s) (Machine.passKeyByte b { s with acc := A, grid := G }) := by
  have hready : accReady s = true := accReady_iff.2 (.inl hmode)
  rcases passKeyByte_cases b s with ⟨hne, e⟩ | ⟨heq, e⟩
  · exact h.keep e (if_neg hne) rfl rfl (fun _ => ⟨hready, rfl⟩) (by simp [loaded, hphase])
  · exact h.keep e (if_pos heq) rfl rfl (fun _ => ⟨hready, rfl⟩) (by simp [loaded])

theorem SameSeen.rxCont (h : SameSeen s { s with acc := A, grid := G }) (hinv : Inv s) (hmode : s.mode = .dec)
    (hphase : s.phase = .dCont) (b : Byte) :
    SameSeen (rxCont b s) (Machine.rxCont b { s with acc := A, grid := G }) := by
  have hready : accReady s = true := accReady_of_dec hmode (by simp [hphase])
  rcases rxCont_cases b s with ⟨h0, e⟩ | ⟨h1, e⟩ | ⟨h0, h1, e⟩
  · exact h.keep e (if_pos h0) rfl rfl (fun _ => ⟨hready, rfl⟩) (by simp [loaded])
  · have h0 : b ≠ 0x00#8 := by simp [h1]
    exact h.keep e ((if_neg h0).trans (if_pos h1)) rfl rfl (fun _ => ⟨hready, rfl⟩) (by simp [loaded])
  · rw [e, show Machine.rxCont b { s with acc := A, grid := G } = _ from (if_neg h0).trans (if_neg h1)]
    exact h.raise hinv _ _ _

theorem SameSeen.rxType (h : SameSeen s { s with acc := A, grid := G }) (hinv : Inv s) (hmode : s.mode = .dec)
    (hphase : s.phase = .dType) (b : Byte) :
    SameSeen (rxType b s) (Machine.rxType b { s with acc := A, grid := G }) := by
  have hready : accReady s = true := accReady_of_dec hmode (by simp [hphase])
  rcases rxType_cases b s with ⟨h0, e⟩ | ⟨h0, e⟩
  · exact h.keep e (if_pos h0) rfl rfl (fun _ => ⟨hready, rfl⟩) (by simp [loaded])
  · rw [e, show Machine.rxType b { s with acc := A, grid := G } = _ from if_neg h0]
    exact h.raise hinv _ _ _

theorem SameSeen.rxKsize (h : SameSeen s { s with acc := A, grid := G }) (hmode : s.mode = .dec)
    (hphase : s.phase = .dKsize) (b : Byte) :
    SameSeen (rxKsize b s) (Machine.rxKsize b { s with acc := A, grid := G }) := by
  have hready : accReady s = true := accReady_of_dec hmode (by simp [hphase])
  rcases rxKsize_cases b s with ⟨hne, e⟩ | ⟨heq, e⟩
  · exact h.keep e (if_neg hne) rfl rfl (fun _ => ⟨hready, rfl⟩) (by simp [loaded, hphase])
  · refine h.keep e (if_pos heq) rfl rfl (fun _ => ⟨hready, rfl⟩) ?_
    split <;> simp [loaded]

theorem SameSeen.rxKey (h : SameSeen s { s with acc := A, grid := G }) (hmode : s.mode = .dec)
    (hphase : s.phase = .dKey) (b : Byte) :
    SameSeen (rxKey b s) (Machine.rxKey b { s with acc := A, grid := G }) := by
  have hready : accReady s = true := accReady_of_dec hmode (by simp [hphase])
  rcases rxKey_cases b s with ⟨hne, e⟩ | ⟨heq, e⟩
  · exact h.keep e (if_neg hne) rfl rfl (fun _ => ⟨hready, rfl⟩) (by simp [loaded, hphase])
  · exact h.keep e (if_pos heq) rfl rfl (fun _ => ⟨hready, rfl⟩) (by simp [loaded])

theorem advanceHeader_of_unusable (hend : s.sub + 1#32 = 14#32) (hcfg : cfgCheck s ≠ 0#8) :
    advanceHeader s = raise .configError (cfgCheck s) 0#8 { s with sub := 14#32 } := by
  rcases advanceHeader_cases s with ⟨hne, _⟩ | ⟨_, _, e⟩ | ⟨_, hok, _⟩
  · exact absurd hend hne
  · exact e
  · exact absurd hok hcfg

/-- The last header byte sets every accumulator to 0; before it none is readable. -/
theorem SameSeen.advanceHeader (h : SameSeen s { s with acc := A, grid := G }) (hmode : s.mode = .dec)
    (hphase : s.phase = .dHdr) :
    SameSeen (advanceHeader s) (Machine.advanceHeader { s with acc := A, grid := G }) := by
  rcases advanceHeader_cases s with ⟨hne, e⟩ | ⟨hend, hcfg, e⟩ | ⟨hend, hcfg, e⟩
  · exact h.keep e (if_neg hne) rfl rfl (by simp [accReady, hmode, hphase]) (by simp [loaded, hphase])
  · have e' := advanceHeader_of_unusable (s := { s with acc := A, grid := G }) hend hcfg
    exact h.keep e e' rfl rfl (by simp [accReady, hphase]) (by simp [loaded, hphase])
  · exact sameSeen_of_cleared e ((if_pos hend).trans (if_pos hcfg)) rfl fun _ => rfl

theorem SameSeen.rxHeader (h : SameSeen s { s with acc := A, grid := G }) (hinv : Inv s) (hmode : s.mode = .dec)
    (hphase : s.phase = .dHdr) (b : Byte) :
    SameSeen (rxHeader b s) (Machine.rxHeader b { s with acc := A, grid := G }) := by
  have filled (w ht : Word) (f : BitVec 16) : SameSeen (Machine.advanceHeader { s with W := w, H := ht, FPS := f })
      (Machine.advanceHeader { s with W := w, H := ht, FPS := f, acc := A, grid := G }) :=
    SameSeen.advanceHeader (s := { s with W := w, H := ht, FPS := f })
      (h.keep rfl rfl rfl rfl (by simp [accReady, hmode, hphase]) (by simp [loaded, hphase])) hmode hphase
  unfold Machine.rxHeader
  dsimp only
  split
  · split
    · exact h.advanceHeader hmode hphase
    · exact h.raise hinv _ _ _
  · split
    · exact filled _ s.H s.FPS
    · split
      · exact filled s.W _ s.FPS
      · exact filled s.W s.H _

/-! ### A grid cell -/

/-- In a grid phase the cells below `sub` are loaded (10_state.md R33). -/
theorem loaded_grid_iff {g : Nat} (hphase : s.phase = .eGrid ∨ s.phase = .dGrid) :
    loaded s g = true ↔ g < s.sub.toNat := by
  rcases hphase with hp | hp <;> simp [loaded, hp]

/-- In a pixel phase every cell is loaded (10_state.md R33). -/
theorem loaded_pixel_iff {g : Nat} (hphase : s.phase = .ePix ∨ s.phase = .dRle) : loaded s g = true ↔ g < s.NC := by
  rcases hphase with hp | hp <;> simp [loaded, hp]

/-- A cell that arrives loads at most the cell at `sub` anew. -/
theorem loaded_of_loadCell {c : Rgb} {g : Nat} (hphase : s.phase = .eGrid ∨ s.phase = .dGrid)
    (hg : loaded (loadCell c s) g = true) : g = s.sub.toNat ∨ loaded s g = true := by
  have hsucc : (s.sub + 1#32).toNat ≤ s.sub.toNat + 1 := by
    simp only [BitVec.toNat_add, BitVec.toNat_ofNat]
    omega
  have hbelow : g < (s.sub + 1#32).toNat := by
    rcases loadCell_cases c s with ⟨_, e⟩ | ⟨hlast, e⟩ <;> rw [e] at hg
    · exact (loaded_grid_iff (by exact hphase)).1 hg
    · rw [hlast]
      have hNC : g < State.NC _ := (loaded_pixel_iff (by exact ite_eq_or_eq _ _ _)).1 hg
      exact hNC
  rw [loaded_grid_iff hphase]
  omega

/-- What a cell does to its grid store, apart from the phase (41_delta.md R113). -/
theorem loadCell_stores (c : Rgb) :
    (loadCell c s).acc = s.acc ∧ (loadCell c s).grid = s.grid.write gridZero s.sub.toNat c ∧
    loadCell c { s with acc := A, grid := G } =
      { loadCell c s with acc := A, grid := G.write gridZero s.sub.toNat c } := by
  rcases loadCell_cases c s with ⟨hne, e⟩ | ⟨hlast, e⟩ <;> rw [e]
  · exact ⟨rfl, rfl, if_neg hne⟩
  · exact ⟨rfl, rfl, if_pos hlast⟩

theorem SameSeen.loadCell (h : SameSeen s { s with acc := A, grid := G }) (hs : s.grid.wf gridZero = true)
    (hG : G.wf gridZero = true) (hmode : s.mode = .enc ∨ s.mode = .dec) (hphase : s.phase = .eGrid ∨ s.phase = .dGrid)
    (c : Rgb) : SameSeen (loadCell c s) (Machine.loadCell c { s with acc := A, grid := G }) := by
  have hready : accReady s = true := by
    rcases hmode with hm | hm <;> rcases hphase with hp | hp <;> simp [accReady, hm, hp]
  obtain ⟨hacc, hgrid, e⟩ := loadCell_stores (s := s) (A := A) (G := G) c
  obtain ⟨⟨_, _, hW, hH, _⟩, _⟩ := loadCell_frame c s
  rw [e]
  refine ⟨rfl, fun _ i hi => ?_, fun g hg => ?_⟩
  · have hread := h.acc hready i (N_congr hW hH ▸ hi)
    simpa only [accRead, hacc] using hread
  · simp only [gridRead, hgrid]
    by_cases hsub : g = s.sub.toNat
    · subst hsub
      rw [Memory.read_write_same _ hs, Memory.read_write_same _ hG]
    · rw [Memory.read_write_other _ _ hsub, Memory.read_write_other _ _ hsub]
      exact h.grid g ((loaded_of_loadCell hphase hg).resolve_left hsub)

/-! ### Pixels -/

/-- In a pixel phase every accumulator and every grid cell of the frame is seen. -/
structure SamePixels (s : State) (A : Memory (BitVec 4)) (G : Memory Rgb) : Prop where
  accForm : s.acc.wf accZero = true
  twinForm : A.wf accZero = true
  acc : ∀ i < s.N, Memory.read accZero A i = accRead s i
  grid : ∀ g < s.NC, Memory.read gridZero G g = gridRead s g

/-- The bank of a twin with the accumulator at the cursor bumped. -/
def bumpCursor (s : State) (bit : Bool) (A : Memory (BitVec 4)) : Memory (BitVec 4) :=
  A.write accZero s.p.toNat (bump (accRead s s.p.toNat) bit)

theorem SamePixels.blockLum (h : SamePixels s A G) (hcfg : cfgCheck s = 0#8) {i : Nat} (hi : i < s.N) :
    blockLum { s with acc := A, grid := G } i = Machine.blockLum s i :=
  congrArg lum3 (h.grid _ (cellOf_lt_NC hcfg hi))

theorem SamePixels.deltaBit (h : SamePixels s A G) (hcfg : cfgCheck s = 0#8) (hp : s.p.toNat < s.N) (c : Rgb) :
    deltaBit { s with acc := A, grid := G } c = Machine.deltaBit s c := by
  have hread : accRead { s with acc := A, grid := G } s.p.toNat = accRead s s.p.toNat := h.acc _ hp
  unfold Machine.deltaBit
  dsimp only
  rw [h.blockLum hcfg hp, hread]

theorem SamePixels.lumRec (h : SamePixels s A G) (hcfg : cfgCheck s = 0#8) (hp : s.p.toNat < s.N) (bit : Bool) :
    lumRec bit { s with acc := A, grid := G } = Machine.lumRec bit s := by
  have hread : accRead { s with acc := A, grid := G } s.p.toNat = accRead s s.p.toNat := h.acc _ hp
  unfold Machine.lumRec
  dsimp only
  rw [h.blockLum hcfg hp, hread]

theorem SamePixels.accBump (h : SamePixels s A G) (hp : s.p.toNat < s.N) (bit : Bool) :
    accBump s.p.toNat bit { s with acc := A, grid := G } =
      { accBump s.p.toNat bit s with acc := bumpCursor s bit A, grid := G } := by
  have hread : accRead { s with acc := A, grid := G } s.p.toNat = accRead s s.p.toNat := h.acc _ hp
  unfold Machine.accBump
  rw [hread]
  rfl

/-- The bump at the cursor keeps what the twins share. -/
theorem SamePixels.bump (h : SamePixels s A G) (bit : Bool) :
    SamePixels (Machine.accBump s.p.toNat bit s) (bumpCursor s bit A) G where
  accForm := accBump_wf h.accForm _ _
  twinForm := Memory.write_wf _ h.twinForm _ _
  acc i hi := by
    by_cases hip : i = s.p.toNat
    · subst hip
      rw [accRead_accBump_same h.accForm]
      exact Memory.read_write_same _ h.twinForm _ _
    · rw [accRead_accBump_other s hip]
      exact (Memory.read_write_other _ _ hip _).trans (h.acc i hi)
  grid := h.grid

theorem SamePixels.decPixel (h : SamePixels s A G) (hcfg : cfgCheck s = 0#8) (hp : s.p.toNat < s.N) (bit : Bool) :
    decPixel bit { s with acc := A, grid := G } =
      { Machine.decPixel bit s with acc := bumpCursor s bit A, grid := G } := by
  change advanceP (emitLum (Machine.lumRec bit _) (Machine.accBump s.p.toNat bit _)) = _
  rw [h.lumRec hcfg hp, h.accBump hp]
  rfl

/-- A run of decoded pixels does the same in a twin, and leaves twins (41_delta.md R118). -/
theorem SamePixels.decPixels {n : Nat} (h : SamePixels s A G) (hcfg : cfgCheck s = 0#8) (hn : s.p.toNat + n ≤ s.N)
    (bit : Bool) :
    ∃ A', decPixels n bit { s with acc := A, grid := G } = { Machine.decPixels n bit s with acc := A', grid := G } ∧
      SamePixels (Machine.decPixels n bit s) A' G := by
  induction n generalizing s A with
  | zero => exact ⟨A, rfl, h⟩
  | succ n ih =>
    have hsucc : (Machine.decPixel bit s).p.toNat ≤ s.p.toNat + 1 := by
      change (s.p + 1#32).toNat ≤ _
      simp only [BitVec.toNat_add, BitVec.toNat_ofNat]
      omega
    have hstep : SamePixels (Machine.decPixel bit s) (bumpCursor s bit A) G := { h.bump bit with }
    have hfit : (Machine.decPixel bit s).p.toNat + n ≤ (Machine.decPixel bit s).N := by
      change _ ≤ s.N
      omega
    unfold Machine.decPixels
    rw [h.decPixel hcfg (by omega)]
    exact ih hstep hcfg hfit

theorem SameSeen.pixels (h : SameSeen s { s with acc := A, grid := G }) (hs : s.acc.wf accZero = true)
    (hA : A.wf accZero = true) (hready : accReady s = true) (hphase : s.phase = .ePix ∨ s.phase = .dRle) :
    SamePixels s A G where
  accForm := hs
  twinForm := hA
  acc := h.acc hready
  grid g hg := h.grid g ((loaded_pixel_iff hphase).2 hg)

theorem SamePixels.sameSeen (h : SamePixels s A G) (hloaded : ∀ g, loaded s g = true → g < s.NC) :
    SameSeen s { s with acc := A, grid := G } :=
  ⟨rfl, fun _ => h.acc, fun g hg => h.grid g (hloaded g hg)⟩

/-- What the twins share in a pixel phase depends on the stores and the configuration alone. -/
theorem SamePixels.congr (h : SamePixels s A G) (hacc : s'.acc = s.acc) (hgrid : s'.grid = s.grid) (hN : s'.N = s.N)
    (hNC : s'.NC = s.NC) : SamePixels s' A G where
  accForm := hacc ▸ h.accForm
  twinForm := h.twinForm
  acc i hi := by simpa only [accRead, hacc] using h.acc i (hN ▸ hi)
  grid g hg := by simpa only [gridRead, hgrid] using h.grid g (hNC ▸ hg)

/-! ### A pixel of an encode session -/

theorem extendRun_stores (bit : Bool) : extendRun bit { s with acc := A, grid := G } =
    { extendRun bit s with acc := A, grid := G } := by
  by_cases hlen : s.runLen = 0#7
  · simp [extendRun, hlen, openRun]
  · by_cases hbit : bit = s.runFlag <;> simp [extendRun, hlen, hbit, openRun, rleEmit, emitOut]

theorem rlePush_stores (bit : Bool) : rlePush bit { s with acc := A, grid := G } =
    { rlePush bit s with acc := A, grid := G } := by
  unfold rlePush
  rw [extendRun_stores]
  by_cases hfull : (extendRun bit s).runLen.toNat = Config.maxRun <;> simp [hfull, rleEmit, emitOut]

theorem rleFlush_stores : rleFlush { s with acc := A, grid := G } = { rleFlush s with acc := A, grid := G } := by
  by_cases hlen : s.runLen = 0#7 <;> simp [rleFlush, hlen, rleEmit, emitOut]

theorem endFrameEnc_stores : endFrameEnc { s with acc := A, grid := G } =
    { endFrameEnc s with acc := A, grid := G } := by
  by_cases hlast : s.p.toNat = s.N
  · rw [show endFrameEnc s = _ from if_pos hlast,
      show endFrameEnc { s with acc := A, grid := G } = _ from if_pos hlast, rleFlush_stores]
    rfl
  · rw [show endFrameEnc s = _ from if_neg hlast,
      show endFrameEnc { s with acc := A, grid := G } = _ from if_neg hlast]

theorem encodePixel_acc (c : Rgb) (s : State) :
    (encodePixel c s).acc = (accBump s.p.toNat (deltaBit s c) s).acc ∧ (encodePixel c s).grid = s.grid := by
  obtain ⟨o, f, l, _, ⟨_, e⟩ | ⟨_, e⟩⟩ := encodePixel_frame c s <;> simp [e, accBump]

theorem SamePixels.encodePixel (h : SamePixels s A G) (hcfg : cfgCheck s = 0#8) (hp : s.p.toNat < s.N) (c : Rgb) :
    encodePixel c { s with acc := A, grid := G } =
      { Machine.encodePixel c s with acc := bumpCursor s (Machine.deltaBit s c) A, grid := G } := by
  unfold Machine.encodePixel
  dsimp only
  rw [h.deltaBit hcfg hp, h.accBump hp, rlePush_stores]
  exact endFrameEnc_stores (s := advanceP (rlePush _ (Machine.accBump s.p.toNat (Machine.deltaBit s c) s)))

theorem SameSeen.encodePixel (h : SameSeen s { s with acc := A, grid := G }) (hs : Inv s) (hA : A.wf accZero = true)
    (hmode : s.mode = .enc) (hphase : s.phase = .ePix) (c : Rgb) :
    SameSeen (encodePixel c s) (Machine.encodePixel c { s with acc := A, grid := G }) := by
  obtain ⟨_, _, hp, hcfg, _⟩ := hs.placeOk hmode hphase
  have hpix := h.pixels hs.accForm hA (accReady_iff.2 (.inl hmode)) (.inl hphase)
  obtain ⟨⟨_, hB, hW, hH, _⟩, hplace⟩ := encodePixel_place c s
  obtain ⟨hacc, hgrid⟩ := encodePixel_acc c s
  rw [hpix.encodePixel hcfg hp]
  refine ((hpix.bump _).congr hacc hgrid (N_congr hW hH) (NC_congr hW hH hB)).sameSeen fun g hg => ?_
  rcases hplace with hsame | hframe
  · exact (loaded_pixel_iff (.inl (hsame.trans hphase))).1 hg
  · simp [loaded, hframe] at hg

/-! ### A run byte -/

theorem rxRun_of_zero {b : Byte} (h : (rleLength b).toNat = 0) :
    rxRun b s = .next (raise .rleZeroLength 0#8 b s) := if_pos h

theorem rxRun_of_overrun {b : Byte} (h0 : (rleLength b).toNat ≠ 0) (h : s.N - s.p.toNat < (rleLength b).toNat) :
    rxRun b s = .next (raise .rleOverrun 0#8 b s) := (if_neg h0).trans (if_pos h)

theorem rxRun_of_cells {b : Byte} (h0 : (rleLength b).toNat ≠ 0) (hcells : cellsExist s (rleLength b).toNat = true) :
    rxRun b s = .next (endFrameDec (decPixels (rleLength b).toNat (rleFlag b) s)) := by
  have hfit := (cellsExist_iff.1 hcells).1
  have hroom : ¬ s.N - s.p.toNat < (rleLength b).toNat := by omega
  exact (if_neg h0).trans ((if_neg hroom).trans (if_pos hcells))

theorem SamePixels.endFrameDec (h : SamePixels s A G) (hphase : s.phase = .dRle) :
    SameSeen (endFrameDec s) (Machine.endFrameDec { s with acc := A, grid := G }) := by
  rcases endFrameDec_cases s with ⟨hne, e⟩ | ⟨heq, e⟩
  · rw [e, show Machine.endFrameDec { s with acc := A, grid := G } = _ from if_neg hne]
    exact h.sameSeen fun g hg => (loaded_pixel_iff (.inr hphase)).1 hg
  · rw [e, show Machine.endFrameDec { s with acc := A, grid := G } = _ from if_pos heq]
    exact SamePixels.sameSeen (h.congr rfl rfl rfl rfl) (by simp [loaded])

theorem decPixels_phase (n : Nat) (bit : Bool) (s : State) : (decPixels n bit s).phase = s.phase := by
  obtain ⟨A, L, _, e⟩ := decPixels_frame n bit s
  rw [e]

theorem SameSeen.rxRun (h : SameSeen s { s with acc := A, grid := G }) (hs : Inv s) (hA : A.wf accZero = true)
    (hmode : s.mode = .dec) (hphase : s.phase = .dRle) {b : Byte} (hrun : rxRun b s = .next s') :
    ∃ t', Machine.rxRun b { s with acc := A, grid := G } = .next t' ∧ SameSeen s' t' := by
  obtain ⟨_, _, _, hcfg, _⟩ := hs.placeOk hmode hphase
  rcases rxRun_cases hrun with ⟨h0, rfl⟩ | ⟨h0, hover, rfl⟩ | ⟨h0, hcells, rfl⟩
  · exact ⟨_, rxRun_of_zero h0, h.raise hs _ _ _⟩
  · exact ⟨_, rxRun_of_overrun h0 hover, h.raise hs _ _ _⟩
  · refine ⟨_, rxRun_of_cells h0 hcells, ?_⟩
    have hpix := h.pixels hs.accForm hA (accReady_of_dec hmode (by simp [hphase])) (.inr hphase)
    obtain ⟨A', e, hpix'⟩ := hpix.decPixels hcfg (cellsExist_iff.1 hcells).1 (rleFlag b)
    rw [e]
    exact hpix'.endFrameDec ((decPixels_phase _ _ s).trans hphase)

theorem rxByPhase_dHdr (b : Byte) (hphase : s.phase = .dHdr) : rxByPhase b s = .next (rxHeader b s) := by
  simp [rxByPhase, hphase]

theorem rxByPhase_dCont (b : Byte) (hphase : s.phase = .dCont) : rxByPhase b s = .next (rxCont b s) := by
  simp [rxByPhase, hphase]

theorem rxByPhase_dType (b : Byte) (hphase : s.phase = .dType) : rxByPhase b s = .next (rxType b s) := by
  simp [rxByPhase, hphase]

theorem rxByPhase_dKsize (b : Byte) (hphase : s.phase = .dKsize) : rxByPhase b s = .next (rxKsize b s) := by
  simp [rxByPhase, hphase]

theorem rxByPhase_dKey (b : Byte) (hphase : s.phase = .dKey) : rxByPhase b s = .next (rxKey b s) := by
  simp [rxByPhase, hphase]

theorem rxByPhase_dRle (b : Byte) (hphase : s.phase = .dRle) : rxByPhase b s = rxRun b s := by
  simp [rxByPhase, hphase]

/-- A byte on RX does the same in a twin, in every phase in which it is read. -/
theorem SameSeen.rxByPhase (h : SameSeen s { s with acc := A, grid := G }) (hs : Inv s) (hA : A.wf accZero = true)
    (hmode : s.mode = .dec) {b : Byte} (hrx : rxByPhase b s = .next s') :
    ∃ t', Machine.rxByPhase b { s with acc := A, grid := G } = .next t' ∧ SameSeen s' t' := by
  rcases rxByPhase_cases hrx with ⟨hp, rfl⟩ | ⟨hp, rfl⟩ | ⟨hp, rfl⟩ | ⟨hp, rfl⟩ | ⟨hp, rfl⟩ | ⟨hp, hrun⟩
  · exact ⟨_, rxByPhase_dHdr b hp, h.rxHeader hs hmode hp b⟩
  · exact ⟨_, rxByPhase_dCont b hp, h.rxCont hs hmode hp b⟩
  · exact ⟨_, rxByPhase_dType b hp, h.rxType hs hmode hp b⟩
  · exact ⟨_, rxByPhase_dKsize b hp, h.rxKsize hmode hp b⟩
  · exact ⟨_, rxByPhase_dKey b hp, h.rxKey hmode hp b⟩
  · obtain ⟨t', hrun', hsame⟩ := h.rxRun hs hA hmode hp hrun
    exact ⟨t', (rxByPhase_dRle b (by exact hp)).trans hrun', hsame⟩

end

/-! ### The statements -/

theorem exec_twin {i : Instr} {s t' : State} {A : Memory (BitVec 4)} {G : Memory Rgb} (ha : accepts i s = true)
    (heffect : effect i { s with acc := A, grid := G } = .next t') :
    exec i { s with acc := A, grid := G } = .next t' :=
  exec_next.2 ⟨(accepts_stores i s A G).trans ha, heffect⟩

/-- What an operation does in a state it does in a twin that looks the same, and it leaves such twins. -/
theorem SameSeen.exec {s s' t : State} (hs : Inv s) (ht : Inv t) (h : SameSeen s t) {i : Instr}
    (hexec : exec i s = .next s') : ∃ t', exec i t = .next t' ∧ SameSeen s' t' := by
  obtain ⟨A, G, rfl⟩ : ∃ A G, t = { s with acc := A, grid := G } := ⟨_, _, h.rest⟩
  have ha := (exec_next.1 hexec).1
  cases ran_of_exec hexec with
  | cfgWr n v hmode => exact ⟨_, exec_twin ha rfl, h.writeCR hs hmode _ v⟩
  | cfgRd n => exact ⟨_, exec_twin ha rfl, h.emitRsp (readCR s n.toNat)⟩
  | accRd k =>
    obtain ⟨hready, hk⟩ : accReady s = true ∧ k.toNat < s.N := by simpa [accepts, guardAccRd] using ha
    have hread : accRead { s with acc := A, grid := G } k.toNat = accRead s k.toNat := h.acc hready _ hk
    exact ⟨_, exec_twin ha rfl, hread ▸ h.emitRsp _⟩
  | startEnc _ hcfg =>
    exact ⟨_, exec_twin ha (congrArg Host.Outcome.next (if_pos hcfg)), sameSeen_of_cleared rfl rfl rfl fun _ => rfl⟩
  | startEncError _ hcfg => exact ⟨_, exec_twin ha (congrArg Host.Outcome.next (if_neg hcfg)), h.raise hs _ _ _⟩
  | startDec => exact ⟨_, exec_twin ha rfl, h.keep rfl rfl rfl rfl (by simp [accReady]) (by simp [loaded])⟩
  | frameBegin k hmode =>
    refine ⟨_, exec_twin ha rfl, h.keep rfl rfl rfl rfl (fun _ => ⟨accReady_iff.2 (.inl hmode), rfl⟩) fun g hg => ?_⟩
    split at hg <;> simp [loaded] at hg
  | endEnc hmode =>
    exact ⟨_, exec_twin ha rfl, h.keep rfl rfl rfl rfl (fun _ => ⟨accReady_iff.2 (.inl hmode), rfl⟩) (by simp [loaded])⟩
  | reset => exact ⟨_, exec_twin ha rfl, rfl, fun _ _ _ => rfl, fun _ _ => rfl⟩
  | keyByte b hmode hphase => exact ⟨_, exec_twin ha rfl, h.passKeyByte hmode hphase b⟩
  | gridLd c hplace =>
    have hcell := hs.loadCell_has_cell ha
    refine ⟨_, exec_twin ha (if_pos hcell), h.loadCell hs.gridForm ht.gridForm ?_ ?_ c⟩
    · exact hplace.imp And.left And.left
    · exact hplace.imp And.right And.right
  | pixEnc c hmode hphase =>
    exact ⟨_, exec_twin ha (if_pos (hs.pixel_has_cell ha)), h.encodePixel hs ht.accForm hmode hphase c⟩
  | rxEosError hmode => exact ⟨_, exec_twin ha (congrArg Host.Outcome.next (if_pos hmode)), h.raise hs _ _ _⟩
  | rxEosIgnored hmode => exact ⟨_, exec_twin ha (congrArg Host.Outcome.next (if_neg hmode)), h⟩
  | sigErr k hmode =>
    have hsession := inSession_iff.2 hmode
    exact ⟨_, exec_twin ha (congrArg Host.Outcome.next (if_pos hsession)), h.raise hs _ _ _⟩
  | sigErrIgnored k hmode => exact ⟨_, exec_twin ha (congrArg Host.Outcome.next (if_neg hmode)), h⟩
  | rx hbyte hmode hrx =>
    obtain ⟨t', hrx', hsame⟩ := h.rxByPhase hs ht.accForm hmode hrx
    have htwin := (accepted_rx ((accepts_stores i s A G).trans ha) hbyte).2
    exact ⟨t', exec_twin ha (htwin.trans hrx'), hsame⟩

/-- In IDLE an operation does the same in every twin, and a session it starts reads 0 in every accumulator. -/
theorem exec_idle_stores {s t : State} {i : Instr} (A : Memory (BitVec 4)) (G : Memory Rgb) (hidle : s.mode = .idle)
    (hexec : exec i s = .next t) :
    ∃ A' G', exec i { s with acc := A, grid := G } = .next { t with acc := A', grid := G' } ∧
      (t.mode = .enc → (∀ k < s.N, Memory.read accZero t.acc k = 0#4) ∧ ∀ k < s.N, Memory.read accZero A' k = 0#4) := by
  have ha := (exec_next.1 hexec).1
  have notEnc {u : State} (hmode : u.mode = .idle) : u.mode ≠ .enc := by simp [hmode]
  cases ran_of_exec hexec with
  | cfgWr n v =>
    have hmode := (writeCR_frame n.toNat v s).1.trans hidle
    exact ⟨A, G, exec_twin ha (congrArg Host.Outcome.next (writeCR_stores n.toNat v s A G)),
      fun e => absurd e (notEnc hmode)⟩
  | cfgRd n => exact ⟨A, G, exec_twin ha rfl, fun e => absurd e (notEnc hidle)⟩
  | accRd k => simp [accepts, guardAccRd, not_accReady_of_idle hidle] at ha
  | startEnc _ hcfg =>
    exact ⟨A.clearBelow s.N, G, exec_twin ha (congrArg Host.Outcome.next (if_pos hcfg)),
      fun _ => ⟨fun _ => Memory.read_clearBelow_lt _ _, fun _ => Memory.read_clearBelow_lt _ _⟩⟩
  | startEncError _ hcfg => exact ⟨A, G, exec_twin ha (congrArg Host.Outcome.next (if_neg hcfg)), fun e => nomatch e⟩
  | startDec => exact ⟨A, G, exec_twin ha rfl, fun e => nomatch e⟩
  | reset => exact ⟨[], [], exec_twin ha rfl, fun e => nomatch e⟩
  | rxEosIgnored => simp [accepts, guardRxEos, hidle] at ha
  | sigErrIgnored k hmode =>
    exact ⟨A, G, exec_twin ha (congrArg Host.Outcome.next (if_neg hmode)), fun e => absurd e (notEnc hidle)⟩
  | frameBegin _ hmode | endEnc hmode | keyByte _ hmode | pixEnc _ hmode | rxEosError hmode | rx _ hmode =>
    exact absurd (hidle.symm.trans hmode) (by simp)
  | gridLd _ hplace => simp [hidle] at hplace
  | sigErr _ hmode => simp [hidle] at hmode

/-- Settles O50: twins run alike in IDLE whatever they hold (`exec_idle_stores`), and elsewhere as long as they look the
same (`SameSeen.exec`). -/
theorem unspecifiedStoresAreUnobservable : Obligations.UnspecifiedStoresAreUnobservable := by
  refine ⟨fun i s t A G => exec_idle_stores A G, fun i s t hs ht h => ⟨fun s' => h.exec hs ht, fun hrefused => ?_⟩⟩
  rw [h.rest, (refusedExactlyWhenNotAccepted i _).1, accepts_stores]
  exact (refusedExactlyWhenNotAccepted i s).1.1 hrefused

/-! ### A run byte and the grid (41_delta.md R119) -/

/-- With another grid and another block size a run of pixels differs in LUMOUT alone, and there in no bit: the bit and
the bump come from the byte and the bank, the grid only from the prediction that is emitted. -/
theorem decPixels_other_grid (n : Nat) (bit : Bool) (s : State) (G : Memory Rgb) (bs : Byte) {L : List LumRec}
    (hL : L.map LumRec.bit = s.lumout.map LumRec.bit) :
    ∃ L', decPixels n bit { s with grid := G, B := bs, lumout := L } =
        { decPixels n bit s with grid := G, B := bs, lumout := L' } ∧
      L'.map LumRec.bit = (decPixels n bit s).lumout.map LumRec.bit := by
  induction n generalizing s L with
  | zero => exact ⟨L, rfl, hL⟩
  | succ n ih =>
    have hbits : (L ++ [lumRec bit { s with grid := G, B := bs, lumout := L }]).map LumRec.bit =
        (decPixel bit s).lumout.map LumRec.bit := by
      simp [decPixel, hL, lumRec]
    exact ih (decPixel bit s) hbits

theorem endFrameDec_other_grid (s : State) (G : Memory Rgb) (bs : Byte) (L : List LumRec) :
    endFrameDec { s with grid := G, B := bs, lumout := L } =
      { endFrameDec s with grid := G, B := bs, lumout := L } ∧ (endFrameDec s).lumout = s.lumout := by
  rcases endFrameDec_cases s with ⟨hne, e⟩ | ⟨heq, e⟩ <;> rw [e]
  · exact ⟨if_neg hne, rfl⟩
  · exact ⟨if_pos heq, rfl⟩

/-- Settles O51: both errors of a run byte and its room in the frame are decided without GRID and B. -/
theorem decodedAccumulatorsDoNotDependOnTheGrid : Obligations.DecodedAccumulatorsDoNotDependOnTheGrid := by
  intro b s t G bs _ hinv hmode hphase hexec
  obtain ⟨ha, heffect⟩ := exec_next.1 hexec
  have hrun : rxRun b s = .next t := (rxByPhase_dRle b hphase).symm.trans heffect
  have hexec' : exec (.rxByte b) { s with grid := G, B := bs } = rxRun b { s with grid := G, B := bs } :=
    (exec_of_accepts (by exact ha)).trans (rxByPhase_dRle b (by exact hphase))
  rw [hexec']
  rcases rxRun_cases hrun with ⟨h0, rfl⟩ | ⟨h0, hover, rfl⟩ | ⟨h0, hcells, rfl⟩
  · exact ⟨s.lumout, rxRun_of_zero h0, rfl⟩
  · exact ⟨s.lumout, rxRun_of_overrun h0 hover, rfl⟩
  · have hcfg : cfgCheck { s with grid := G, B := bs } = 0#8 := hinv.config (.inr ⟨hmode, by simp [hphase]⟩)
    have hcells' := cellsExist_of_le hcfg (cellsExist_iff.1 hcells).1
    obtain ⟨L, hpixels, hbits⟩ := decPixels_other_grid (rleLength b).toNat (rleFlag b) s G bs (L := s.lumout) rfl
    obtain ⟨hend, hlum⟩ := endFrameDec_other_grid (decPixels (rleLength b).toNat (rleFlag b) s) G bs L
    refine ⟨L, ?_, hlum ▸ hbits⟩
    rw [rxRun_of_cells h0 hcells', ← hend, ← hpixels]

end Sys2Proof.Machine
end

section
/-! SUPPORT. The decoder (spec/30_encoding.md): the fields of the formats, the commands and the wire tokens as tables
that the decoder reads both ways, and a wire token as RX.BYTE of its byte. -/

namespace Sys2Proof.Machine

/-! ### The fields of the formats (R70, R74, R75, R87) -/

theorem cmdOp_cmdWord (op sel : Byte) (arg : Word) : cmdOp (cmdWord op sel arg) = op :=
  (BitVec.extractLsb'_append_eq_of_le (by decide)).trans BitVec.extractLsb'_append_eq_left

theorem cmdSel_cmdWord (op sel : Byte) (arg : Word) : cmdSel (cmdWord op sel arg) = sel :=
  (BitVec.extractLsb'_append_eq_of_le (by decide)).trans BitVec.extractLsb'_append_eq_right

theorem cmdArg_cmdWord (op sel : Byte) (arg : Word) : cmdArg (cmdWord op sel arg) = arg :=
  BitVec.extractLsb'_append_eq_right

theorem cmdOp_toNat (w : BitVec 48) : (cmdOp w).toNat = w.toNat / 2 ^ 40 := by
  simp only [cmdOp, BitVec.extractLsb'_toNat, Nat.shiftRight_eq_div_pow]
  omega

theorem cmdSel_toNat (w : BitVec 48) : (cmdSel w).toNat = w.toNat / 2 ^ 32 % 256 := by
  simp only [cmdSel, BitVec.extractLsb'_toNat, Nat.shiftRight_eq_div_pow]

theorem rgbOfWord_rgbWord (c : Rgb) : rgbOfWord (rgbWord c) = c := by
  have hb : (rgbWord c).extractLsb' 16 8 = c.b :=
    (BitVec.extractLsb'_append_eq_of_le (by decide)).trans BitVec.extractLsb'_append_eq_left
  have hg : (rgbWord c).extractLsb' 8 8 = c.g :=
    (BitVec.extractLsb'_append_eq_of_le (by decide)).trans BitVec.extractLsb'_append_eq_right
  have hr : (rgbWord c).extractLsb' 0 8 = c.r := BitVec.extractLsb'_append_eq_right
  rw [rgbOfWord, hr, hg, hb]

theorem rxEosMark_append (mark : BitVec 1) (b : Byte) : rxEosMark (mark ++ b) = mark.getLsbD 0 := by
  rw [rxEosMark, BitVec.getLsbD_append, if_neg (by decide)]

theorem rxData_rxWord (b : Byte) : rxData (rxWord b) = b := BitVec.extractLsb'_append_eq_right

theorem rleFlag_rleByte (flag : Bool) (len : BitVec 7) : rleFlag (rleByte flag len) = flag := by
  rw [rleFlag, rleByte, BitVec.getLsbD_append, if_neg (by decide)]
  simp

theorem rleLength_rleByte (flag : Bool) (len : BitVec 7) : rleLength (rleByte flag len) = len :=
  BitVec.extractLsb'_append_eq_right

theorem rleByte_rleLength {b : Byte} {flag : Bool} (h : rleFlag b = flag) : rleByte flag (rleLength b) = b := by
  have hbit : BitVec.ofBool flag = b.extractLsb' 7 1 := by
    apply BitVec.eq_of_getLsbD_eq
    intro j hj
    obtain rfl : j = 0 := by omega
    simpa [rleFlag] using h.symm
  rw [rleByte, hbit]
  exact BitVec.extractLsb'_append_extractLsb' (w := 1) (len := 7)

/-! ### The commands (R71 to R73) -/

/-- The table of R71 with the registers R73 leaves: the operation a command is, of its three fields. Tied to the
decoder by `decode_cmd`. -/
inductive Command : Byte → Byte → Word → Instr → Prop
  | cfgWr {sel : Byte} {arg : Word} (hsel : sel.toNat ≤ 3) : Command 0x01#8 sel arg (.cfgWr sel arg)
  | cfgRd {sel : Byte} {arg : Word} (hsel : sel.toNat ≤ 9) : Command 0x02#8 sel arg (.cfgRd sel)
  | accRd {sel : Byte} {arg : Word} : Command 0x03#8 sel arg (.accRd arg)
  | startEnc {sel : Byte} {arg : Word} : Command 0x10#8 sel arg .startEnc
  | startDec {sel : Byte} {arg : Word} : Command 0x11#8 sel arg .startDec
  | frameBegin {sel : Byte} {arg : Word} : Command 0x12#8 sel arg (.frameBegin arg)
  | endEnc {sel : Byte} {arg : Word} : Command 0x13#8 sel arg .endEnc
  | reset {sel : Byte} {arg : Word} : Command 0x1F#8 sel arg .reset

theorem decodeCmd_eq_ok {w : BitVec 48} {i : Instr} :
    decodeCmd w = .ok i ↔ Command (cmdOp w) (cmdSel w) (cmdArg w) i := by
  unfold decodeCmd
  generalize cmdOp w = op, cmdSel w = sel, cmdArg w = arg
  constructor
  · intro h
    split_ifs at h <;> cases h <;> subst op <;> constructor <;> assumption
  · intro h
    cases h <;> simp [*]

/-- On CMD the phase and the place have no say. -/
theorem decode_cmd {ph : Phase} {sub : Word} {w : BitVec 48} {i : Instr} :
    decode ph sub (.cmd w) = .ok i ↔ Command (cmdOp w) (cmdSel w) (cmdArg w) i := by
  rw [← decodeCmd_eq_ok, decode, decodeTransfer]
  cases h : decodeCmd w with
  | rejected why => simp
  | ok j =>
    have hj := decodeCmd_eq_ok.1 h
    generalize cmdOp w = op at hj
    cases hj <;> rfl

theorem decode_cmdWord {op sel : Byte} {arg : Word} {i : Instr} (h : Command op sel arg i) (ph : Phase) (sub : Word) :
    decode ph sub (.cmd (cmdWord op sel arg)) = .ok i := by
  rw [decode_cmd, cmdOp_cmdWord, cmdSel_cmdWord, cmdArg_cmdWord]
  exact h

/-- What R73 reserves, from the other side: the `op` of a command is of the table, and its register exists. -/
theorem Command.not_reserved {op sel : Byte} {arg : Word} {i : Instr} (h : Command op sel arg i) :
    op.toNat ∈ [0x01, 0x02, 0x03, 0x10, 0x11, 0x12, 0x13, 0x1F] ∧ (op.toNat = 0x01 → sel.toNat ≤ 3) ∧
      (op.toNat = 0x02 → sel.toNat ≤ 9) := by
  cases h <;> simp [*]

theorem Command.readable {op sel : Byte} {arg : Word} {i : Instr} (h : Command op sel arg i) (ph : Phase) (sub : Word) :
    i.wellFormed = true ∧ readableAt i ph sub = true := by
  cases h with
  | cfgWr hsel | cfgRd hsel => exact ⟨decide_eq_true hsel, rfl⟩
  | _ => exact ⟨rfl, rfl⟩

/-- Kind 3 is reserved (R76). -/
theorem decode_errin {ph : Phase} {sub : Word} {k : BitVec 2} {i : Instr} :
    decode ph sub (.errin k) = .ok i ↔ k.toNat ≤ 2 ∧ i = .sigErr k := by
  by_cases hkind : k.toNat ≤ 2 <;> simp [decode, decodeTransfer, hkind, eq_comm]

/-! ### The wire tokens (R80 to R87) -/

/-- At a phase and a place the byte `b` is the token `i`: it is the token's byte, and the place is the token's
(`tokenPlace`). Tied to the decoder by `decodeWire_eq_some`. -/
def TokenAt (ph : Phase) (n : Nat) (b : Byte) (i : Instr) : Prop :=
  rxByteOf i = some b ∧ ∃ lo hi, tokenPlace i = some (ph, lo, hi) ∧ lo ≤ n ∧ n ≤ hi

/-- Outside the header and the key size a token is read wherever `sub` stands. -/
theorem tokenAt_of_any_sub {ph : Phase} {b : Byte} {i : Instr} (sub : Word) (hb : rxByteOf i = some b)
    (hplace : tokenPlace i = some (ph, 0, 4294967295)) : TokenAt ph sub.toNat b i :=
  ⟨hb, _, _, hplace, by omega, by omega⟩

theorem tokenAt_of_decodeHeader {n : Nat} {b : Byte} {i : Instr} (h : decodeHeader n b = some i) :
    TokenAt .dHdr n b i := by
  unfold decodeHeader at h
  split at h
  case h_1 | h_2 | h_3 | h_4 =>
    split at h
    · cases h
      subst b
      exact ⟨rfl, _, _, rfl, le_rfl, le_rfl⟩
    · cases h
  case h_15 => cases h
  all_goals
    cases h
    exact ⟨rfl, _, _, rfl, by omega, by omega⟩

theorem tokenAt_of_decodeWire {ph : Phase} {sub : Word} {b : Byte} {i : Instr} (h : decodeWire ph sub b = some i) :
    TokenAt ph sub.toNat b i := by
  cases ph with
  | pNone | eFrame | eKey | eGrid | ePix | dGrid => cases h
  | dHdr => exact tokenAt_of_decodeHeader h
  | dCont | dType =>
    dsimp only [decodeWire] at h
    split_ifs at h <;> cases h <;> subst b <;> exact tokenAt_of_any_sub sub rfl rfl
  | dKsize =>
    dsimp only [decodeWire] at h
    split_ifs at h
    cases h
    exact ⟨rfl, _, _, rfl, by omega, by omega⟩
  | dKey =>
    cases h
    exact tokenAt_of_any_sub sub rfl rfl
  | dRle =>
    dsimp only [decodeWire] at h
    split_ifs at h with hflag <;> cases h
    · exact tokenAt_of_any_sub sub (congrArg some (rleByte_rleLength hflag)) rfl
    · exact tokenAt_of_any_sub sub (congrArg some (rleByte_rleLength (by simpa using hflag))) rfl

theorem decodeHeader_width {n : Nat} (hlo : 4 ≤ n) (hhi : n ≤ 7) (b : Byte) :
    decodeHeader n b = some (.wireWidth b) := by
  interval_cases n <;> rfl

theorem decodeHeader_height {n : Nat} (hlo : 8 ≤ n) (hhi : n ≤ 11) (b : Byte) :
    decodeHeader n b = some (.wireHeight b) := by
  interval_cases n <;> rfl

theorem decodeHeader_fps {n : Nat} (hlo : 12 ≤ n) (hhi : n ≤ 13) (b : Byte) :
    decodeHeader n b = some (.wireFps b) := by
  interval_cases n <;> rfl

theorem TokenAt.decodeWire {ph : Phase} {sub : Word} {b : Byte} {i : Instr} (h : TokenAt ph sub.toNat b i) :
    decodeWire ph sub b = some i := by
  obtain ⟨hb, lo, hi, hplace, hlo, hhi⟩ := h
  unfold Sys2Proof.decodeWire
  cases i with
  | cfgWr | cfgRd | accRd | startEnc | startDec | frameBegin | endEnc | reset | keyByte | gridLd | pixEnc | rxByte
  | rxEos | sigErr => cases hplace
  | wireMagic0 | wireMagic1 | wireMagic2 | wireMagic3 =>
    cases hplace
    cases hb
    rw [Nat.le_antisymm hhi hlo]
    rfl
  | wireWidth => cases hplace; cases hb; exact decodeHeader_width hlo hhi _
  | wireHeight => cases hplace; cases hb; exact decodeHeader_height hlo hhi _
  | wireFps => cases hplace; cases hb; exact decodeHeader_fps hlo hhi _
  | wireContChunk | wireContEnd | wireTypeVideo | wireKey => cases hplace; cases hb; rfl
  | wireKsize => cases hplace; cases hb; exact if_pos (by omega)
  | wireRleRun0 | wireRleRun1 =>
    cases hplace
    cases hb
    simp [rleFlag_rleByte, rleLength_rleByte]

/-- A container byte is read as a token exactly where it is one (R80). -/
theorem decodeWire_eq_some {ph : Phase} {sub : Word} {b : Byte} {i : Instr} :
    decodeWire ph sub b = some i ↔ TokenAt ph sub.toNat b i :=
  ⟨tokenAt_of_decodeWire, TokenAt.decodeWire⟩

/-- A token can be read where it stands, and nowhere else. -/
theorem readableAt_token {i : Instr} {ph q : Phase} {sub : Word} {lo hi : Nat}
    (hplace : tokenPlace i = some (q, lo, hi)) :
    readableAt i ph sub = true ↔ ph = q ∧ lo ≤ sub.toNat ∧ sub.toNat ≤ hi := by
  have hread : readableAt i ph sub = (decide (ph = q) && decide (lo ≤ sub.toNat) && decide (sub.toNat ≤ hi)) := by
    cases i <;> cases hplace <;> rfl
  simp [hread, and_assoc]

theorem TokenAt.readable {ph : Phase} {sub : Word} {b : Byte} {i : Instr} (h : TokenAt ph sub.toNat b i) :
    i.wellFormed = true ∧ readableAt i ph sub = true := by
  obtain ⟨_, lo, hi, hplace, hlo, hhi⟩ := h
  have hwf : i.wellFormed = true := by cases i <;> cases hplace <;> rfl
  exact ⟨hwf, (readableAt_token hplace).2 ⟨rfl, hlo, hhi⟩⟩

theorem decode_rx (ph : Phase) (sub : Word) (w : BitVec 9) :
    decode ph sub (.rx w) =
      if rxEosMark w then .ok .rxEos else .ok ((decodeWire ph sub (rxData w)).getD (.rxByte (rxData w))) := by
  rw [decode, decodeTransfer]
  split_ifs <;> rfl

theorem decode_rxWord (ph : Phase) (sub : Word) (b : Byte) :
    decode ph sub (.rx (rxWord b)) = .ok ((decodeWire ph sub b).getD (.rxByte b)) := by
  rw [decode_rx, rxData_rxWord, rxWord, rxEosMark_append]
  rfl

theorem encode_of_rxByteOf {i : Instr} {b : Byte} (hb : rxByteOf i = some b) : encode i = .rx (rxWord b) := by
  cases i <;> cases hb <;> rfl

theorem decode_encode_token {i : Instr} {b : Byte} {ph q : Phase} {sub : Word} {lo hi : Nat}
    (hb : rxByteOf i = some b) (hplace : tokenPlace i = some (q, lo, hi)) (hread : readableAt i ph sub = true) :
    decode ph sub (encode i) = .ok i := by
  obtain ⟨rfl, hlo, hhi⟩ := (readableAt_token hplace).1 hread
  have hwire : decodeWire ph sub b = some i := decodeWire_eq_some.2 ⟨hb, lo, hi, hplace, hlo, hhi⟩
  rw [encode_of_rxByteOf hb, decode_rxWord, hwire]
  rfl

/-! ### Decode and encode agree (R70 to R76, R80 to R88) -/

/-- Settles O6: a command is read by its row of `Command`, a token by `decodeWire_eq_some`, and RX.BYTE of a byte where
the byte is no token. -/
theorem decodeReadsBackEveryEncoding : Obligations.DecodeReadsBackEveryEncoding := by
  intro i ph sub hwf hread
  cases i with
  | cfgWr n v => exact decode_cmdWord (.cfgWr (of_decide_eq_true hwf)) ph sub
  | cfgRd n => exact decode_cmdWord (.cfgRd (of_decide_eq_true hwf)) ph sub
  | accRd k => exact decode_cmdWord .accRd ph sub
  | startEnc => exact decode_cmdWord .startEnc ph sub
  | startDec => exact decode_cmdWord .startDec ph sub
  | frameBegin k => exact decode_cmdWord .frameBegin ph sub
  | endEnc => exact decode_cmdWord .endEnc ph sub
  | reset => exact decode_cmdWord .reset ph sub
  | keyByte b => rfl
  | gridLd c => exact congrArg (Decoded.ok <| .gridLd ·) (rgbOfWord_rgbWord c)
  | pixEnc c => exact congrArg (Decoded.ok <| .pixEnc ·) (rgbOfWord_rgbWord c)
  | rxByte b =>
    have hwire : decodeWire ph sub b = none := Option.isNone_iff_eq_none.1 hread
    rw [encode, decode_rxWord, hwire]
    rfl
  | rxEos => rfl
  | sigErr k => exact decode_errin.2 ⟨of_decide_eq_true hwf, rfl⟩
  | _ => exact decode_encode_token rfl rfl hread

/-- Settles O7: the three ways a byte on RX is read are the end of stream, a token at its place, and RX.BYTE where there
is none; a command is one of `Command`. -/
theorem decodedOperationsAreWellFormed : Obligations.DecodedOperationsAreWellFormed := by
  intro ph sub o i h
  cases o with
  | cmd w => exact (decode_cmd.1 h).readable ph sub
  | keyin | gridin | pixin => cases h; exact ⟨rfl, rfl⟩
  | rx w =>
    rw [decode_rx] at h
    split at h
    · cases h
      exact ⟨rfl, rfl⟩
    · cases hwire : decodeWire ph sub (rxData w) with
      | none =>
        rw [hwire] at h
        cases h
        exact ⟨rfl, Option.isNone_iff_eq_none.2 hwire⟩
      | some j =>
        rw [hwire] at h
        cases h
        exact (decodeWire_eq_some.1 hwire).readable
  | errin k =>
    obtain ⟨hkind, rfl⟩ := decode_errin.1 h
    exact ⟨decide_eq_true hkind, rfl⟩

/-- Settles O8: no row of `Command` but CFG.WR and CFG.RD speaks of `sel`, and CFG.RD's not of `arg`. -/
theorem unusedFieldsAreIgnored : Obligations.UnusedFieldsAreIgnored := by
  refine fun ph sub x v => ⟨fun hsel => decode_cmdWord (.cfgRd hsel) ph sub, decode_cmdWord .accRd ph sub,
    decode_cmdWord .startEnc ph sub, decode_cmdWord .startDec ph sub, decode_cmdWord .frameBegin ph sub,
    decode_cmdWord .endEnc ph sub, decode_cmdWord .reset ph sub, ?_⟩
  rw [decode_rx, rxEosMark_append]
  rfl

/-! ### A reserved encoding is never accepted (R73, R76, 00_scope.md R9) -/

theorem acceptable_eq_none {s : State} {c : Channel} {o : Transfer} (hhead : s.offers.head c = some o)
    (hrejected : ∀ i, decode s.phase s.sub o ≠ .ok i) : acceptable s c = none := by
  by_contra h
  obtain ⟨i, hi⟩ := Option.ne_none_iff_exists'.1 h
  obtain ⟨o', ho, hdecode, _⟩ := acceptable_some.1 hi
  cases hhead.symm.trans ho
  exact hrejected i hdecode

/-- A step serves another channel than one on which nothing is acceptable. -/
theorem step_serves_another {s t : State} {d : Channel} (hd : acceptable s d = none) (ht : step s = .next t) :
    ∃ c, c ≠ d ∧ t.offers = s.offers.pop c := by
  obtain ⟨c, hc, hoffers⟩ := step_offers ht
  exact ⟨c, fun e => hc (e ▸ hd), hoffers⟩

/-- Settles O4: a command that decodes is not reserved (`Command.not_reserved`), nor is a kind
(`decode_errin`); a step that serves another channel leaves the queue. -/
theorem reservedEncodingsAreNeverAccepted : Obligations.ReservedEncodingsAreNeverAccepted := by
  refine fun s => ⟨fun w hhead hreserved => ?_, fun hhead => ?_⟩
  · have hnone : acceptable s .cmd = none := by
      refine acceptable_eq_none hhead fun i hi => ?_
      obtain ⟨hop, hwr, hrd⟩ := (decode_cmd.1 hi).not_reserved
      rw [cmdOp_toNat] at hop hwr hrd
      rw [cmdSel_toNat] at hwr hrd
      rcases hreserved with h | ⟨h1, h⟩ | ⟨h2, h⟩
      · exact h hop
      · exact h.not_ge (hwr h1)
      · exact h.not_ge (hrd h2)
    refine ⟨hnone, fun t ht => ?_⟩
    obtain ⟨c, hc, hoffers⟩ := step_serves_another hnone ht
    obtain ⟨hcmd, _⟩ := s.offers.pop_other c
    rw [hoffers, hcmd hc]
  · have hnone : acceptable s .errin = none :=
      acceptable_eq_none hhead fun i hi => absurd (decode_errin.1 hi).1 (by decide)
    refine ⟨hnone, fun t ht => ?_⟩
    obtain ⟨c, hc, hoffers⟩ := step_serves_another hnone ht
    obtain ⟨_, _, _, _, _, herrin⟩ := s.offers.pop_other c
    rw [hoffers, herrin hc]

/-! ### A wire token as RX.BYTE of its byte (R80, 44_container_reader.md R172) -/

theorem accepts_token {i : Instr} {s : State} {q : Phase} {lo hi : Nat} (hplace : tokenPlace i = some (q, lo, hi)) :
    accepts i s = guardWire q lo hi s := by
  cases i <;> cases hplace <;> rfl

theorem not_accepted_token_iff {i : Instr} {s : State} {q : Phase} {lo hi : Nat}
    (hplace : tokenPlace i = some (q, lo, hi)) :
    exec i s = .refused .notAccepted ↔ ¬ (s.mode = .dec ∧ s.phase = q ∧ lo ≤ s.sub.toNat ∧ s.sub.toNat ≤ hi) := by
  rw [(refusedExactlyWhenNotAccepted i s).1, accepts_token hplace, ← guardWire_iff, Bool.not_eq_true]

/-- Settles O40: the guard of a token is `guardWire` at its place. -/
theorem wireTokensAreTakenOnlyInTheirPlace : Obligations.WireTokensAreTakenOnlyInTheirPlace :=
  fun _ _ _ _ _ => not_accepted_token_iff

/-- RX holds no token while grid cells are awaited. -/
theorem token_phase_ne_dGrid {i : Instr} {q : Phase} {lo hi : Nat} (hplace : tokenPlace i = some (q, lo, hi)) :
    q ≠ .dGrid := by
  cases i <;> cases hplace <;> simp

/-- At its place a token is accepted exactly when RX.BYTE is. -/
theorem TokenAt.accepts_eq {s : State} {b : Byte} {i : Instr} (h : TokenAt s.phase s.sub.toNat b i) :
    accepts (.rxByte b) s = accepts i s := by
  obtain ⟨_, lo, hi, hplace, hlo, hhi⟩ := h
  rw [accepts_token hplace]
  simp [accepts, guardRxByte, guardWire, token_phase_ne_dGrid hplace, hlo, hhi]

/-- Settles O41: the two are accepted alike, and accepted both do what the phase asks of the byte. -/
theorem rxByteIsItsWireToken : Obligations.RxByteIsItsWireToken := by
  intro b s i hwire
  have htoken := decodeWire_eq_some.1 hwire
  rw [exec_eq_guarded, exec_eq_guarded, htoken.accepts_eq]
  cases ha : accepts i s with
  | false => rfl
  | true => rw [(accepted_rx ha htoken.1).2]; rfl

theorem exec_magic_token {i : Instr} {s : State} {k : Nat} (hk : k < 4) (hb : rxByteOf i = some (magicByte k))
    (hplace : tokenPlace i = some (.dHdr, k, k)) (hmode : s.mode = .dec) (hphase : s.phase = .dHdr)
    (hsub : s.sub = BitVec.ofNat 32 k) : exec i s = .next { s with sub := BitVec.ofNat 32 (k + 1) } := by
  have hnat : s.sub.toNat = k := by rw [hsub, BitVec.toNat_ofNat]; omega
  have ha : accepts i s = true := by
    rw [accepts_token hplace, guardWire_iff]
    exact ⟨hmode, hphase, hnat.ge, hnat.le⟩
  have hheader : rxHeader (magicByte k) s = advanceHeader s := by
    rcases rxHeader_cases (magicByte k) s with ⟨_, hne, _⟩ | ⟨_, _, h⟩ | ⟨h, _⟩ | ⟨h, _⟩ | ⟨h, _⟩
    · exact absurd (by rw [hnat]) hne
    · exact h
    all_goals omega
  have hnext : s.sub + 1#32 = BitVec.ofNat 32 (k + 1) := by rw [hsub, BitVec.ofNat_add]
  have hadvance : advanceHeader s = { s with sub := BitVec.ofNat 32 (k + 1) } := by
    have hne : s.sub + 1#32 ≠ 14#32 := by bv_omega
    rcases advanceHeader_cases s with ⟨_, h⟩ | ⟨h, _⟩ | ⟨h, _⟩
    · rw [h, hnext]
    all_goals exact absurd h hne
  rw [exec_of_accepts ha, (accepted_rx ha hb).2, rxByPhase_dHdr _ hphase, hheader, hadvance]

theorem magic_token_not_accepted {i : Instr} {s : State} {k : Nat} (hk : k < 4)
    (hplace : tokenPlace i = some (.dHdr, k, k))
    (h : ¬ (s.mode = .dec ∧ s.phase = .dHdr ∧ s.sub = BitVec.ofNat 32 k)) : exec i s = .refused .notAccepted := by
  refine (not_accepted_token_iff hplace).2 fun ⟨hmode, hphase, hlo, hhi⟩ => h ⟨hmode, hphase, ?_⟩
  apply BitVec.eq_of_toNat_eq
  rw [BitVec.toNat_ofNat]
  omega

/-- Settles O36: each token of the magic carries `magicByte` of its own place. -/
theorem magicTokensAdvanceTheHeader : Obligations.MagicTokensAdvanceTheHeader := by
  refine fun s => ⟨fun hmode hphase => ⟨?_, ?_, ?_, ?_⟩, ?_, ?_, ?_, ?_⟩
  · exact exec_magic_token (k := 0) (by decide) rfl rfl hmode hphase
  · exact exec_magic_token (k := 1) (by decide) rfl rfl hmode hphase
  · exact exec_magic_token (k := 2) (by decide) rfl rfl hmode hphase
  · exact exec_magic_token (k := 3) (by decide) rfl rfl hmode hphase
  · exact magic_token_not_accepted (k := 0) (by decide) rfl
  · exact magic_token_not_accepted (k := 1) (by decide) rfl
  · exact magic_token_not_accepted (k := 2) (by decide) rfl
  · exact magic_token_not_accepted (k := 3) (by decide) rfl

/-! ### The packed forms of the output records (R77) -/

theorem lumRec_word_toNat (r : LumRec) :
    r.word.toNat = (if r.bit then 1 else 0) * 2 ^ 18 + r.lumPre.toNat * 2 ^ 9 + r.lumPost.toNat := by
  have hbit : (BitVec.ofBool r.bit).toNat = if r.bit then 1 else 0 := by cases r.bit <;> rfl
  rw [LumRec.word, toNat_append_eq_add, toNat_append_eq_add, hbit]
  omega

theorem byteOf_toNat {n : Nat} (v : BitVec n) (i : Nat) : (byteOf v i).toNat = v.toNat / 2 ^ (8 * i) % 256 := by
  rw [byteOf, BitVec.extractLsb'_toNat, Nat.shiftRight_eq_div_pow]

theorem beat_toNat (mark : BitVec 1) (b : Byte) : (mark ++ b : BitVec 9).toNat = mark.toNat * 256 + b.toNat :=
  toNat_append_eq_add mark b

/-- Settles O9: a concatenation is the sum of its parts, and the bytes of a size are its digits (`byteOf_toNat`). -/
theorem outputRecordsPackAsTheSpecSays : Obligations.OutputRecordsPackAsTheSpecSays := by
  refine ⟨lumRec_word_toNat, fun b => by simp [KeyRec.beats, beat_toNat], fun k => ?_⟩
  have hlast : k.toNat / 2 ^ 24 % 256 = k.toNat / 2 ^ 24 := by omega
  simpa [KeyRec.beats, le4, beat_toNat, byteOf_toNat] using hlast

/-! ### The words the spec writes out (R75, R87, R90) -/

/-- Settles O5: the ten words are closed terms, which the decoder reads. -/
theorem theSpecsWordsDecode : Obligations.TheSpecsWordsDecode :=
  ⟨rfl, rfl, rfl, rfl, rfl, rfl, rfl, rfl, rfl, rfl⟩

end Sys2Proof.Machine
end

section
/-! SUPPORT. The AccumulatorBank (spec/40_accumulator.md): many bumps of one accumulator, and the same bumps of two
banks. -/

namespace Sys2Proof.Machine

/-! ### Bumps of one accumulator (R101, R102) -/

/-- Many bumps one way are one saturating sum or difference. -/
theorem iterate_bump_toNat (a : BitVec 4) (inc : Bool) (k : Nat) :
    ((fun x => bump x inc)^[k] a).toNat = if inc then min (a.toNat + k) 15 else a.toNat - k := by
  induction k with
  | zero =>
    have := a.isLt
    simp only [Function.iterate_zero, id_eq]
    split <;> omega
  | succ k ih =>
    rw [Function.iterate_succ_apply', bump_toNat, ih]
    split <;> omega

theorem iterate_bump_saturated (a : BitVec 4) (inc : Bool) {k : Nat} (hk : 15 ≤ k) :
    (fun x => bump x inc)^[k] a = if inc then 15#4 else 0#4 := by
  have := a.isLt
  apply BitVec.eq_of_toNat_eq
  rw [iterate_bump_toNat]
  cases inc <;> simp <;> omega

/-- Settles O26: `bump_toNat` says what one bump does, and 15 of them cover the range of an accumulator. -/
theorem bumpSaturates : Obligations.BumpSaturates := by
  refine ⟨fun a => ⟨bump_toNat a true, ?_⟩, fun a k hk =>
    ⟨iterate_bump_saturated a true hk, iterate_bump_saturated a false hk⟩⟩
  have hdown : (bump a false).toNat = a.toNat - 1 := bump_toNat a false
  omega

/-! ### Bumps of two banks (R103, R105) -/

/-- `acc_bump` reads nothing but the bank. -/
theorem accBump_acc_congr {s d : State} (h : s.acc = d.acc) (i : Nat) (inc : Bool) :
    (accBump i inc s).acc = (accBump i inc d).acc := by
  simp only [accBump_acc, accRead, h]

/-- Settles O52: every bump keeps the two banks equal, so a list of bumps does. -/
theorem equalBumpsLeaveEqualBanks : Obligations.EqualBumpsLeaveEqualBanks := by
  intro l
  induction l with
  | nil => exact fun _ _ h => h
  | cons x l ih => exact fun _ _ h => ih _ _ (accBump_acc_congr h x.1 x.2)

end Sys2Proof.Machine
end

section
/-! SUPPORT. The run-length packer (spec/42_rle.md): what it reads and changes of the state, and that the bytes of a
sequence of pushes are `rle_pack` of its bits. -/

namespace Sys2Proof.Machine

/-! ### The packer inside the state (R130, R131, R133) -/

/-- `s` with the packer of `k`: OUT and the run in progress. -/
def withPacker (k s : State) : State := { s with out := k.out, runFlag := k.runFlag, runLen := k.runLen }

/-- A push reads and changes nothing but the packer. -/
theorem rlePush_withPacker (bit : Bool) (k s : State) :
    rlePush bit (withPacker k s) = withPacker (rlePush bit k) s := by
  have hextend : extendRun bit (withPacker k s) = withPacker (extendRun bit k) s := by
    simp only [extendRun, apply_ite (withPacker · s)]
    rfl
  simp only [rlePush, hextend, apply_ite (withPacker · s)]
  rfl

/-- A push leaves what is no part of the packer. -/
theorem rlePush_eq_withPacker (bit : Bool) (s : State) : rlePush bit s = withPacker (rlePush bit s) s :=
  rlePush_withPacker bit s s

/-- A flush reads and changes nothing but the packer. -/
theorem rleFlush_withPacker (k s : State) : rleFlush (withPacker k s) = withPacker (rleFlush k) s := by
  simp only [rleFlush, apply_ite (withPacker · s)]
  rfl

theorem rleFlush_eq_withPacker (s : State) : rleFlush s = withPacker (rleFlush s) s := rleFlush_withPacker s s

/-- `rle_push` of a sequence of bits, in order. -/
def rlePushAll (bits : List Bool) (s : State) : State := bits.foldl (fun t b => rlePush b t) s

theorem rlePushAll_cons (b : Bool) (bits : List Bool) (s : State) :
    rlePushAll (b :: bits) s = rlePushAll bits (rlePush b s) := rfl

theorem rlePushAll_withPacker (bits : List Bool) (k s : State) :
    rlePushAll bits (withPacker k s) = withPacker (rlePushAll bits k) s := by
  induction bits generalizing k with
  | nil => rfl
  | cons b bits ih => rw [rlePushAll_cons, rlePushAll_cons, rlePush_withPacker, ih]

/-! ### `rle_pack` over a leading run (R135) -/

theorem runBytes_add_maxRun (bit : Bool) (n : Nat) :
    runBytes (bit, n + 127) = rleByte bit 127#7 :: runBytes (bit, n) := by
  simp [runBytes, Nat.add_div_right, List.replicate_succ]

theorem runBytes_short (bit : Bool) {n : BitVec 7} (hpos : n ≠ 0#7) (hn : n.toNat ≤ 126) :
    runBytes (bit, n.toNat) = [rleByte bit n] := by
  have hdiv : n.toNat / 127 = 0 := by omega
  have hmod : n.toNat % 127 = n.toNat := by omega
  have hne : n.toNat ≠ 0 := fun e => hpos (BitVec.eq_of_toNat_eq e)
  simp [runBytes, hdiv, hmod, hne]

/-- The first maximal run is of the first bit. -/
theorem maximalRuns_head (bits : List Bool) : (maximalRuns bits).head?.map Prod.fst = bits.head? := by
  cases bits with
  | nil => rfl
  | cons b bs =>
    unfold maximalRuns
    split
    · rfl
    · split <;> simp [*]

/-- Equal bits in front of another bit, or of the end, are one maximal run. -/
theorem maximalRuns_replicate_append (bit : Bool) (n : Nat) {bits : List Bool} (h : bits.head? ≠ some bit) :
    maximalRuns (List.replicate (n + 1) bit ++ bits) = (bit, n + 1) :: maximalRuns bits := by
  induction n with
  | zero =>
    rw [← maximalRuns_head] at h
    change maximalRuns (bit :: bits) = _
    cases hruns : maximalRuns bits with
    | nil => simp [maximalRuns, hruns]
    | cons r rest =>
      have hbit : bit ≠ r.1 := by simpa [hruns, eq_comm] using h
      simp [maximalRuns, hruns, hbit]
  | succ n ih => simp [List.replicate_succ (n := n + 1), maximalRuns, ih]

theorem rlePack_replicate_append (bit : Bool) (n : Nat) {bits : List Bool} (h : bits.head? ≠ some bit) :
    rlePack (List.replicate n bit ++ bits) = runBytes (bit, n) ++ rlePack bits := by
  cases n with
  | zero => simp [runBytes]
  | succ n => simp [rlePack, maximalRuns_replicate_append bit n h]

theorem rlePack_nil : rlePack [] = [] := rfl

theorem rlePack_replicate (bit : Bool) (n : Nat) : rlePack (List.replicate n bit) = runBytes (bit, n) := by
  simpa [rlePack_nil] using rlePack_replicate_append bit n (bits := []) (by simp)

theorem exists_leading_run (bit : Bool) (bits : List Bool) :
    ∃ n rest, bits = List.replicate n bit ++ rest ∧ rest.head? ≠ some bit := by
  induction bits with
  | nil => exact ⟨0, [], rfl, by simp⟩
  | cons b bs ih =>
    by_cases hb : b = bit
    · obtain ⟨n, rest, rfl, hrest⟩ := ih
      exact ⟨n + 1, rest, by rw [hb, List.replicate_succ, List.cons_append], hrest⟩
    · exact ⟨0, b :: bs, rfl, by simpa using hb⟩

/-- 127 equal bits in front are a byte of their own, whatever follows them. -/
theorem rlePack_full_run (bit : Bool) (bits : List Bool) :
    rlePack (List.replicate 127 bit ++ bits) = rleByte bit 127#7 :: rlePack bits := by
  obtain ⟨n, rest, rfl, hrest⟩ := exists_leading_run bit bits
  rw [← List.append_assoc, List.replicate_append_replicate, Nat.add_comm, rlePack_replicate_append bit _ hrest,
    rlePack_replicate_append bit n hrest, runBytes_add_maxRun, List.cons_append]

/-! ### Pushing a bit plane (R131, R133, R135) -/

/-- The bits of the open run, which OUT does not show yet. -/
def pendingBits (s : State) : List Bool := List.replicate s.runLen.toNat s.runFlag

/-- A push moves OUT and the open run along `rle_pack` of what is pending and what follows. -/
theorem rlePush_rlePack (bit : Bool) (bits : List Bool) {s : State} (hrun : s.runLen.toNat ≤ 126) :
    (rlePush bit s).out ++ rlePack (pendingBits (rlePush bit s) ++ bits) =
      s.out ++ rlePack (pendingBits s ++ bit :: bits) := by
  obtain ⟨t, ht, ⟨hclosed, rfl⟩ | ⟨hopen, rfl, rfl⟩ | ⟨hopen, hbit, rfl⟩⟩ := rlePush_cases bit s
  · simp [ht, pendingBits, hclosed]
  · have hlen : (s.runLen + 1#7).toNat = s.runLen.toNat + 1 := by
      simp only [BitVec.toNat_add, BitVec.toNat_ofNat]
      omega
    have hbits : List.replicate s.runLen.toNat s.runFlag ++ s.runFlag :: bits =
        List.replicate (s.runLen.toNat + 1) s.runFlag ++ bits := by
      rw [List.replicate_succ', List.append_assoc, List.singleton_append]
    rw [ht, pendingBits, pendingBits, hbits]
    dsimp only
    split
    next hfull =>
      rw [← hlen, hfull, rlePack_full_run]
      have hbyte : s.runLen + 1#7 = 127#7 := BitVec.eq_of_toNat_eq hfull
      simp [hbyte]
    next => rw [hlen]
  · have hhead : (bit :: bits).head? ≠ some s.runFlag := by simpa using hbit
    simp [ht, pendingBits, rlePack_replicate_append s.runFlag _ hhead, runBytes_short s.runFlag hopen hrun]

/-- The flush writes what is pending (R133). -/
theorem rleFlush_out {s : State} (hrun : s.runLen.toNat ≤ 126) :
    (rleFlush s).out = s.out ++ rlePack (pendingBits s) := by
  by_cases hlen : s.runLen = 0#7
  · simp [rleFlush, pendingBits, hlen, rlePack_nil]
  · simp [rleFlush, pendingBits, hlen, rlePack_replicate, runBytes_short s.runFlag hlen hrun]

/-- Pushed and flushed, a sequence of bits is `rle_pack` of the pending bits followed by the sequence (R135). -/
theorem rleFlush_rlePushAll_out (bits : List Bool) {s : State} (hrun : s.runLen.toNat ≤ 126) :
    (rleFlush (rlePushAll bits s)).out = s.out ++ rlePack (pendingBits s ++ bits) := by
  induction bits generalizing s with
  | nil => rw [List.append_nil]; exact rleFlush_out hrun
  | cons b bits ih => rw [rlePushAll_cons, ih (rlePush_runBound b s), rlePush_rlePack b bits hrun]

end Sys2Proof.Machine
end

section
/-! SUPPORT. The DeltaEncoder (spec/41_delta.md): luminances, the covering cell, GRID.LD, PIX.ENC, and a whole encoded
frame (spec/20_memory.md R64). -/

namespace Sys2Proof.Machine

/-! ### Luminances (R110, R114) -/

theorem lum3_toNat (c : Rgb) : (lum3 c).toNat = (c.r.toNat + c.g.toNat + c.b.toNat) / 3 := by
  have hr := c.r.isLt
  have hg := c.g.isLt
  have hb := c.b.isLt
  rw [lum3, BitVec.toNat_ofNat, Nat.mod_eq_of_lt (by omega)]

theorem biasedLum_toNat (y : Byte) (a : BitVec 4) : (biasedLum y a).toNat = y.toNat + 16 * a.toNat := by
  have hy := y.isLt
  have ha := a.isLt
  rw [biasedLum, BitVec.toNat_ofNat, Nat.mod_eq_of_lt (by omega), Nat.mul_comm]

/-- Settles O24: neither sum leaves its width, and lum3 adds before it divides. -/
theorem luminancesAreExact : Obligations.LuminancesAreExact := by
  refine ⟨fun r g b => ⟨lum3_toNat _, ?_, ?_⟩, fun y a => ⟨biasedLum_toNat y a, ?_⟩⟩
  · rw [lum3, lum3, Nat.add_comm r.toNat]
  · rw [lum3, lum3, Nat.add_right_comm]
  · rw [biasedLum_toNat]
    omega

/-! ### The covering cell (R111) -/

theorem pixel_lt_N {s : State} {x y : Nat} (hx : x < s.W.toNat) (hy : y < s.H.toNat) : y * s.W.toNat + x < s.N :=
  calc y * s.W.toNat + x
      < (y + 1) * s.W.toNat := by rw [Nat.succ_mul]; omega
    _ ≤ s.H.toNat * s.W.toNat := Nat.mul_le_mul_right _ hy
    _ = s.N := Nat.mul_comm _ _

theorem cellOf_pixel {s : State} {x : Nat} (hx : x < s.W.toNat) (y : Nat) :
    cellOf s (y * s.W.toNat + x) = y / s.B.toNat * (s.W.toNat / s.B.toNat) + x / s.B.toNat := by
  have hcol : (y * s.W.toNat + x) % s.W.toNat = x := by rw [Nat.mul_add_mod', Nat.mod_eq_of_lt hx]
  have hrow : (y * s.W.toNat + x) / s.W.toNat = y := by
    rw [Nat.mul_comm, Nat.mul_add_div (by omega), Nat.div_eq_of_lt hx, Nat.add_zero]
  rw [cellOf, hcol, hrow]

/-- Settles O25: the pixel's row and column are read back from its index; `cellOf_lt_NC` bounds the cell. -/
theorem coveringCellExists : Obligations.CoveringCellExists := fun _ _ y hcfg hx hy =>
  ⟨pixel_lt_N hx hy, cellOf_lt_NC hcfg (pixel_lt_N hx hy), cellOf_pixel hx y⟩

/-! ### GRID.LD (R113) -/

theorem Memory.read_write {α : Type} [DecidableEq α] (z : α) {m : Memory α} (h : m.wf z = true) (i j : Nat) (v : α) :
    Memory.read z (m.write z i v) j = if j = i then v else Memory.read z m j := by
  split
  next hj => rw [hj, Memory.read_write_same z h]
  next hj => exact Memory.read_write_other z m hj v

/-- A counter below a bound that a word can hold does not wrap. -/
theorem toNat_succ_of_lt {v : Word} {n : Nat} (h : v.toNat < n) (hn : n < 2 ^ 32) :
    (v + 1#32).toNat = v.toNat + 1 := by
  simp only [BitVec.toNat_add, BitVec.toNat_ofNat]
  omega

theorem Inv.exec_gridLd {s : State} (h : Inv s) (hg : guardGridLd s = true) (c : Rgb) :
    Machine.exec (.gridLd c) s = .next (Machine.loadCell c s) :=
  (exec_of_accepts (by exact hg)).trans (if_pos (h.loadCell_has_cell hg))

theorem Inv.sub_succ_toNat {s : State} (h : Inv s) (hg : guardGridLd s = true) :
    (s.sub + 1#32).toNat = s.sub.toNat + 1 := by
  have hplace : (s.mode = .enc ∧ s.phase = .eGrid) ∨ (s.mode = .dec ∧ s.phase = .dGrid) := by
    simpa [guardGridLd] using hg
  have hcfg : cfgCheck s = 0#8 :=
    h.config (hplace.imp And.left fun ⟨hmode, hphase⟩ => ⟨hmode, by simp [hphase]⟩)
  obtain ⟨_, hN, _, hNC⟩ := cfgCheck_bounds hcfg
  exact toNat_succ_of_lt (h.loadCell_has_cell hg) (hNC.trans_lt hN)

/-- Settles O23: the guard is the session's grid phase (`Inv.guardGridLd_iff`), and `loadCell_cases` has the two
outcomes. -/
theorem gridLdLoadsTheNextCell : Obligations.GridLdLoadsTheNextCell := by
  intro c s h
  refine ⟨fun hsession hphase => ?_, fun hplace => ?_⟩
  · have hg := h.guardGridLd_iff.2 ⟨hsession, hphase⟩
    have hsub := h.sub_succ_toNat hg
    refine ⟨s.grid.write gridZero s.sub.toNat c, fun g => Memory.read_write _ h.gridForm _ _ _, ?_⟩
    rw [h.exec_gridLd hg]
    rcases loadCell_cases c s with ⟨hne, e⟩ | ⟨heq, e⟩
    · exact ⟨fun _ => by rw [e], fun hlast => absurd (hsub.trans hlast) hne⟩
    · exact ⟨fun hmore => absurd (hsub.symm.trans heq) hmore, fun _ => by rw [e]⟩
  · have hg : guardGridLd s = false := Bool.eq_false_iff.2 fun hg => hplace (h.guardGridLd_iff.1 hg)
    exact (refusedExactlyWhenNotAccepted _ s).1.2 hg

/-! ### PIX.ENC (R115) -/

theorem deltaBit_iff (s : State) (c : Rgb) :
    deltaBit s c = true ↔
      ((gridRead s (cellOf s s.p.toNat)).r.toNat + (gridRead s (cellOf s s.p.toNat)).g.toNat +
          (gridRead s (cellOf s s.p.toNat)).b.toNat) / 3 + 16 * (accRead s s.p.toNat).toNat <
        (c.r.toNat + c.g.toNat + c.b.toNat) / 3 := by
  rw [deltaBit, decide_eq_true_iff, biasedLum_toNat, blockLum, lum3_toNat, lum3_toNat]

theorem accRead_accBump {s : State} (h : s.acc.wf accZero = true) (i : Nat) (inc : Bool) (q : Nat) :
    accRead (accBump i inc s) q = if q = i then bump (accRead s q) inc else accRead s q := by
  split
  next hq => rw [hq, accRead_accBump_same h]
  next hq => exact accRead_accBump_other s hq inc

/-- The bank once the accumulator at the cursor is bumped by the bit of the pixel `c`. -/
def accAfterPixel (c : Rgb) (s : State) : Memory (BitVec 4) := (accBump s.p.toNat (deltaBit s c) s).acc

/-- A pixel, before it is asked whether it is the last: the packer pushes the bit, the bank is bumped, the cursor
moves. -/
theorem encodePixel_eq (c : Rgb) (s : State) :
    encodePixel c s = endFrameEnc
      (withPacker (rlePush (deltaBit s c) s) { s with acc := accAfterPixel c s, p := s.p + 1#32 }) := by
  have hpush : rlePush (deltaBit s c) (accBump s.p.toNat (deltaBit s c) s) =
      withPacker (rlePush (deltaBit s c) s) { s with acc := accAfterPixel c s } :=
    rlePush_withPacker (deltaBit s c) s { s with acc := accAfterPixel c s }
  rw [encodePixel, hpush]
  rfl

theorem encodePixel_of_more {s : State} (c : Rgb) (hmore : (s.p + 1#32).toNat ≠ s.N) :
    encodePixel c s =
      withPacker (rlePush (deltaBit s c) s) { s with acc := accAfterPixel c s, p := s.p + 1#32 } :=
  (encodePixel_eq c s).trans (if_neg hmore)

theorem encodePixel_of_last {s : State} (c : Rgb) (hlast : (s.p + 1#32).toNat = s.N) :
    encodePixel c s =
      withPacker (rleFlush (rlePush (deltaBit s c) s)) { s with
        acc := accAfterPixel c s, p := 0#32, frame := s.frame + 1#32, phase := .eFrame } := by
  refine (encodePixel_eq c s).trans ((if_pos hlast).trans ?_)
  rw [rleFlush_withPacker]
  rfl

theorem Inv.exec_pixEnc {s : State} (h : Inv s) (hmode : s.mode = .enc) (hphase : s.phase = .ePix) (c : Rgb) :
    Machine.exec (.pixEnc c) s = .next (Machine.encodePixel c s) := by
  have hg : guardPixEnc s = true := by simp [guardPixEnc, hmode, hphase]
  exact (exec_of_accepts (by exact hg)).trans (withCells_next.2 ⟨h.pixel_has_cell hg, rfl⟩)

theorem Inv.p_succ_toNat {s : State} (h : Inv s) (hmode : s.mode = .enc) (hphase : s.phase = .ePix) :
    (s.p + 1#32).toNat = s.p.toNat + 1 := by
  obtain ⟨_, _, hp, hcfg, _⟩ := h.placeOk hmode hphase
  exact toNat_succ_of_lt hp (cfgCheck_bounds hcfg).2.1

/-- Settles O27: `encodePixel_of_more` and `encodePixel_of_last`, with the packer written as the state it pushed in. -/
theorem pixEncEncodesOnePixel : Obligations.PixEncEncodesOnePixel := by
  intro c s h
  refine ⟨fun hmode hphase => ?_, fun hplace => ?_⟩
  · have hp := h.p_succ_toNat hmode hphase
    refine ⟨deltaBit s c, accAfterPixel c s, deltaBit_iff s c, accRead_accBump h.accForm _ _, ?_⟩
    rw [h.exec_pixEnc hmode hphase]
    refine ⟨fun hmore => ?_, fun hlast => ?_⟩
    · rw [encodePixel_of_more c (hp.trans_ne hmore), rlePush_eq_withPacker]
      rfl
    · rw [encodePixel_of_last c (hp.trans hlast), rleFlush_eq_withPacker, rlePush_eq_withPacker]
      rfl
  · have hg : guardPixEnc s = false := by simpa [guardPixEnc] using hplace
    exact (refusedExactlyWhenNotAccepted _ s).1.2 hg

/-! ### A whole encoded frame (R115, 20_memory.md R64, 43_container_writer.md R155) -/

/-- The bits of the pixels from pixel `i` on, from the accumulators of `s`: `frameBits` from another first pixel
(`frameBitsFrom_zero`). -/
def frameBitsFrom (s : State) (i : Nat) (pixels : List Rgb) : List Bool :=
  (pixels.zipIdx i).map fun c =>
    decide ((biasedLum (blockLum s c.2) (accRead s c.2)).toNat < (lum3 c.1).toNat)

theorem frameBitsFrom_zero (s : State) (pixels : List Rgb) : frameBitsFrom s 0 pixels = frameBits s pixels := rfl

theorem frameBitsFrom_nil (s : State) (i : Nat) : frameBitsFrom s i [] = [] := rfl

theorem frameBitsFrom_cursor_cons (s : State) (c : Rgb) (cs : List Rgb) :
    frameBitsFrom s s.p.toNat (c :: cs) = deltaBit s c :: frameBitsFrom s (s.p.toNat + 1) cs := rfl

/-- The bits of the pixels from `i` on look at no accumulator before `i`. -/
theorem frameBitsFrom_congr {s u : State} {i : Nat} (hlum : ∀ q, blockLum u q = blockLum s q)
    (hacc : ∀ q, i ≤ q → accRead u q = accRead s q) (pixels : List Rgb) :
    frameBitsFrom u i pixels = frameBitsFrom s i pixels := by
  refine List.map_congr_left fun c hc => ?_
  rw [hlum, hacc c.2 (List.le_snd_of_mem_zipIdx hc)]

theorem bankAfter_nil (s : State) (i : Nat) : BankAfter s i [] s.acc := by
  intro q
  simp [accRead]

/-- A bank bumped at `i` and then by the bits from `i + 1` on is the bank bumped by them all. -/
theorem bankAfter_cons {s u : State} {i : Nat} {b : Bool} {bits : List Bool} {A : Memory (BitVec 4)}
    (hu : ∀ q, accRead u q = if q = i then bump (accRead s q) b else accRead s q)
    (hA : BankAfter u (i + 1) bits A) : BankAfter s i (b :: bits) A := by
  intro q
  rw [hA q, hu q]
  rcases Nat.lt_trichotomy q i with hlt | rfl | hgt
  · have hne : q ≠ i := by omega
    have hle : ¬ i ≤ q := by omega
    have hle' : ¬ i + 1 ≤ q := by omega
    simp only [hne, hle, hle', ↓reduceIte]
  · simp
  · have hne : q ≠ i := by omega
    have hle : i ≤ q := by omega
    have hle' : i + 1 ≤ q := by omega
    have hindex : q - i = q - (i + 1) + 1 := by omega
    simp only [hne, hle, hle', hindex, ↓reduceIte, List.getElem?_cons_succ]

/-- A pixel leaves the accumulators behind it, the grid and the configuration, so the bits of the pixels behind it. -/
theorem frameBitsFrom_encodePixel (c : Rgb) (s : State) (pixels : List Rgb) :
    frameBitsFrom (encodePixel c s) (s.p.toNat + 1) pixels = frameBitsFrom s (s.p.toNat + 1) pixels := by
  obtain ⟨⟨_, hB, hW, _, _⟩, _⟩ := encodePixel_place c s
  obtain ⟨hacc, hgrid⟩ := encodePixel_acc c s
  refine frameBitsFrom_congr (fun q => ?_) (fun q hq => ?_) pixels
  · simp only [blockLum, gridRead, hgrid, cellOf_congr hW hB]
  · rw [accRead, hacc]
    exact accRead_accBump_other s (by omega) _

/-- The rest of a frame: each accumulator is bumped by its own bit, the bits go through the packer, and the last pixel
flushes it and counts the frame. -/
theorem Inv.execAll_pixEnc {s : State} (h : Inv s) (hmode : s.mode = .enc) (hphase : s.phase = .ePix)
    {pixels : List Rgb} (hlen : s.p.toNat + pixels.length = s.N) :
    ∃ A, BankAfter s s.p.toNat (frameBitsFrom s s.p.toNat pixels) A ∧
      execAll (pixels.map .pixEnc) s =
        .next (withPacker (rleFlush (rlePushAll (frameBitsFrom s s.p.toNat pixels) s)) { s with
          acc := A, p := 0#32, frame := s.frame + 1#32, phase := .eFrame }) := by
  induction pixels generalizing s with
  | nil =>
    have hp := h.cursorIn (inSession_iff.2 (.inl hmode)) (.inl hphase)
    exact absurd hlen hp.ne
  | cons c cs ih =>
    have hexec := h.exec_pixEnc hmode hphase c
    have hp := h.p_succ_toNat hmode hphase
    have hbank := accRead_accBump h.accForm s.p.toNat (deltaBit s c)
    rw [List.length_cons] at hlen
    rw [List.map_cons, execAll, hexec, frameBitsFrom_cursor_cons, rlePushAll_cons]
    dsimp only
    by_cases hlast : (s.p + 1#32).toNat = s.N
    · obtain rfl : cs = [] := List.length_eq_zero_iff.1 (by omega)
      exact ⟨_, bankAfter_cons hbank (bankAfter_nil _ _), congrArg _ (encodePixel_of_last c hlast)⟩
    · have e := encodePixel_of_more c hlast
      have hp' : (Machine.encodePixel c s).p.toNat = s.p.toNat + 1 := by rw [e]; exact hp
      have hN : (Machine.encodePixel c s).N = s.N := by rw [e]; rfl
      obtain ⟨A, hA, hrest⟩ := ih (h.exec hexec) (by rw [e]; exact hmode) (by rw [e]; exact hphase) (by omega)
      rw [hp', frameBitsFrom_encodePixel] at hA hrest
      rw [e] at hA
      refine ⟨A, bankAfter_cons hbank hA, hrest.trans ?_⟩
      rw [e, rlePushAll_withPacker, rleFlush_withPacker]
      rfl

/-- Settles O57: `Inv.execAll_pixEnc` from pixel 0, where no run is open (R34), and the packer's bytes
(`rleFlush_rlePushAll_out`). -/
theorem encodedFrameIsASnapshotFunction : Obligations.EncodedFrameIsASnapshotFunction := by
  intro s pixels h hmode hphase hp hlen
  have hrun : s.runLen = 0#7 := by
    have hle := h.runCursor hmode hphase
    rw [hp] at hle
    exact BitVec.eq_of_toNat_eq (Nat.le_zero.1 hle)
  have hp0 : s.p.toNat = 0 := by rw [hp]; rfl
  obtain ⟨A, hA, hexec⟩ := h.execAll_pixEnc hmode hphase (pixels := pixels) (by omega)
  rw [hp0, frameBitsFrom_zero] at hA hexec
  have hout := rleFlush_rlePushAll_out (frameBits s pixels) h.runBound
  rw [pendingBits, hrun] at hout
  have hclosed := (rleFlush_frame (rlePushAll (frameBits s pixels) s)).1
  refine ⟨A, (rleFlush (rlePushAll (frameBits s pixels) s)).runFlag, hA, ?_⟩
  rw [hexec, withPacker, hout, hclosed, hp]
  rfl

end Sys2Proof.Machine
end

section
/-! SUPPORT. The run byte as the code of a run, and the packer case by case (spec/42_rle.md R130 to R139). -/

namespace Sys2Proof.Machine

/-! ### The run byte as a number (30_encoding.md R87) -/

theorem rleByte_toNat (flag : Bool) (len : BitVec 7) :
    (rleByte flag len).toNat = (if flag then 128 else 0) + len.toNat := by
  rw [rleByte, toNat_append_eq_add]
  cases flag <;> simp

theorem rleByte_eq_ofNat (flag : Bool) (len : BitVec 7) :
    rleByte flag len = BitVec.ofNat 8 ((if flag then 128 else 0) + len.toNat) := by
  rw [← rleByte_toNat, BitVec.ofNat_toNat, BitVec.setWidth_eq]

theorem rleLength_toNat (b : Byte) : (rleLength b).toNat = b.toNat % 128 := by
  simp [rleLength, BitVec.extractLsb'_toNat]

theorem rleFlag_eq_decide (b : Byte) : rleFlag b = decide (128 ≤ b.toNat) := by
  have hbyte := rleByte_toNat (rleFlag b) (rleLength b)
  have hlen := (rleLength b).isLt
  rw [rleByte_rleLength rfl] at hbyte
  cases hflag : rleFlag b with
  | false =>
    rw [hflag, if_neg Bool.false_ne_true] at hbyte
    exact (decide_eq_false (by omega)).symm
  | true =>
    rw [hflag, if_pos rfl] at hbyte
    exact (decide_eq_true (by omega)).symm

/-- ERRINFO of a run byte that raises an error (60_exceptions.md R222). -/
theorem errinfo_of_byte (b : Byte) : b ++ 0#8 = BitVec.ofNat 16 (256 * b.toNat) := by
  apply BitVec.eq_of_toNat_eq
  have hb := b.isLt
  rw [toNat_append_eq_add]
  simp only [BitVec.toNat_ofNat]
  omega

/-! ### `rle_push` case by case (R131) -/

theorem extendRun_of_closed {s : State} (hrun : s.runLen = 0#7) (bit : Bool) :
    extendRun bit s = { s with runFlag := bit, runLen := 1#7 } := if_pos hrun

theorem extendRun_of_same {s : State} (hrun : s.runLen ≠ 0#7) :
    extendRun s.runFlag s = { s with runLen := s.runLen + 1#7 } := (if_neg hrun).trans (if_pos rfl)

theorem extendRun_of_change {s : State} (hrun : s.runLen ≠ 0#7) {bit : Bool} (hbit : bit ≠ s.runFlag) :
    extendRun bit s = { s with out := s.out ++ [rleByte s.runFlag s.runLen], runFlag := bit, runLen := 1#7 } :=
  (if_neg hrun).trans (if_neg hbit)

theorem rlePush_of_short {bit : Bool} {s : State} (h : (extendRun bit s).runLen.toNat ≠ 127) :
    rlePush bit s = extendRun bit s := if_neg h

theorem rlePush_of_full {bit : Bool} {s : State} (h : (extendRun bit s).runLen.toNat = 127) :
    rlePush bit s = rleEmit (extendRun bit s) := if_pos h

/-- An open run that can grow does not wrap. -/
theorem runLen_succ_toNat {n : BitVec 7} (hn : n.toNat ≤ 126) : (n + 1#7).toNat = n.toNat + 1 := by
  simp only [BitVec.toNat_add, BitVec.toNat_ofNat]
  omega

/-- Settles O28: the three cases of `extendRun`, of which only an equal bit can fill the run. -/
theorem runsArePackedGreedily : Obligations.RunsArePackedGreedily := by
  refine ⟨fun bit s hbound => ⟨fun hrun => ?_, fun hrun hbit hshort => ?_, fun hrun hbit hlast => ?_,
    fun hrun hbit => ?_⟩, fun s => ⟨fun hrun => if_pos hrun, fun hrun => ?_⟩⟩
  · have e := extendRun_of_closed hrun bit
    exact (rlePush_of_short (by simp [e])).trans e
  · have e := extendRun_of_same hrun
    have hlen := runLen_succ_toNat hbound
    rw [hbit]
    exact (rlePush_of_short (by rw [e]; dsimp only; omega)).trans e
  · have e := extendRun_of_same hrun
    have hlen : s.runLen + 1#7 = 127#7 := BitVec.eq_of_toNat_eq ((runLen_succ_toNat hbound).trans (by rw [hlast]; rfl))
    have hbyte : rleByte s.runFlag 127#7 = BitVec.ofNat 8 ((if s.runFlag then 128 else 0) + 127) := rleByte_eq_ofNat _ _
    rw [hbit, rlePush_of_full (by rw [e, hlen]; rfl), e, hlen, ← hbyte]
    rfl
  · have e := extendRun_of_change hrun hbit
    rw [← rleByte_eq_ofNat]
    exact (rlePush_of_short (by simp [e])).trans e
  · rw [← rleByte_eq_ofNat]
    exact if_neg hrun

/-! ### The packer's bytes (R135) -/

/-- Settles O55: with no run open nothing is pending, and `rleFlush_rlePushAll_out` speaks of the pushed bits. -/
theorem packerEmitsRlePack : Obligations.PackerEmitsRlePack := by
  intro bits s hrun
  have hpending : pendingBits s = [] := by rw [pendingBits, hrun]; rfl
  have hout := rleFlush_rlePushAll_out bits (s := s) (by rw [hrun]; decide)
  rwa [hpending] at hout

/-! ### The run-length code can be read back (R135, R139) -/

theorem rleUnpack_cons (b : Byte) (bytes : List Byte) :
    rleUnpack (b :: bytes) = List.replicate (rleLength b).toNat (rleFlag b) ++ rleUnpack bytes := rfl

theorem rleUnpack_append (xs ys : List Byte) : rleUnpack (xs ++ ys) = rleUnpack xs ++ rleUnpack ys :=
  List.flatMap_append

/-- Full pieces read back as their bits. -/
theorem rleUnpack_replicate_full (bit : Bool) (k : Nat) :
    rleUnpack (List.replicate k (rleByte bit 127#7)) = List.replicate (127 * k) bit := by
  induction k with
  | zero => rfl
  | succ k ih =>
    rw [List.replicate_succ, rleUnpack_cons, ih, rleLength_rleByte, rleFlag_rleByte, Nat.mul_succ, Nat.add_comm]
    exact List.replicate_append_replicate

/-- The remainder of a run, cut into pieces of 127, fits in a run byte. -/
theorem remainder_toNat (n : Nat) : (BitVec.ofNat 7 (n % 127)).toNat = n % 127 := by
  rw [BitVec.toNat_ofNat]
  omega

theorem rleUnpack_runBytes (r : Bool × Nat) : rleUnpack (runBytes r) = List.replicate r.2 r.1 := by
  obtain ⟨bit, n⟩ := r
  have hrest : rleUnpack (if n % 127 = 0 then [] else [rleByte bit (BitVec.ofNat 7 (n % 127))]) =
      List.replicate (n % 127) bit := by
    split
    next hzero => rw [hzero]; rfl
    next =>
      rw [rleUnpack_cons, rleLength_rleByte, rleFlag_rleByte, remainder_toNat]
      exact List.append_nil _
  rw [runBytes, rleUnpack_append, hrest, rleUnpack_replicate_full, List.replicate_append_replicate, Nat.div_add_mod]

/-- The maximal runs of a sequence, written out, are the sequence. -/
theorem flatMap_maximalRuns (bits : List Bool) :
    ((maximalRuns bits).flatMap fun r => List.replicate r.2 r.1) = bits := by
  induction bits with
  | nil => rfl
  | cons b bs ih =>
    unfold maximalRuns
    cases hruns : maximalRuns bs with
    | nil => rw [hruns] at ih; simp [← ih]
    | cons r rest =>
      rw [hruns] at ih
      dsimp only
      split
      next hbit => rw [← ih]; simp [hbit, List.replicate_succ]
      next => rw [← ih]; simp

theorem rleUnpack_rlePack (bits : List Bool) : rleUnpack (rlePack bits) = bits := by
  calc rleUnpack (rlePack bits)
      = (maximalRuns bits).flatMap fun r => rleUnpack (runBytes r) := List.flatMap_assoc
    _ = (maximalRuns bits).flatMap fun r => List.replicate r.2 r.1 := by simp only [rleUnpack_runBytes]
    _ = bits := flatMap_maximalRuns bits

/-- `rle_pack` writes no run of length 0. -/
theorem rleLength_ne_zero_of_mem_rlePack {bits : List Bool} {b : Byte} (hb : b ∈ rlePack bits) :
    (rleLength b).toNat ≠ 0 := by
  obtain ⟨⟨bit, n⟩, _, hb⟩ := List.mem_flatMap.1 hb
  rcases List.mem_append.1 hb with hfull | hrest
  · rw [List.eq_of_mem_replicate hfull, rleLength_rleByte]
    decide
  · split at hrest
    next => cases hrest
    next hne =>
      rw [List.mem_singleton.1 hrest, rleLength_rleByte, remainder_toNat]
      exact hne

end Sys2Proof.Machine
end

section
/-! SUPPORT. The unpacker (spec/42_rle.md R137, R139): the pixels of a run byte and of its tokens, and a whole decoded
frame. -/

namespace Sys2Proof.Machine

/-! ### Reconstructed pixels (41_delta.md R118) -/

/-- `dec_pixel` of a sequence of bits, in order. -/
def decBits (bits : List Bool) (s : State) : State := bits.foldl (fun t bit => decPixel bit t) s

theorem decBits_cons (bit : Bool) (bits : List Bool) (s : State) :
    decBits (bit :: bits) s = decBits bits (decPixel bit s) := rfl

theorem decBits_append (xs ys : List Bool) (s : State) : decBits (xs ++ ys) s = decBits ys (decBits xs s) :=
  List.foldl_append

theorem decPixels_eq_decBits (n : Nat) (bit : Bool) (s : State) :
    decPixels n bit s = decBits (List.replicate n bit) s := by
  induction n generalizing s with
  | zero => rfl
  | succ n ih => exact ih (decPixel bit s)

theorem lumRecords_nil (s : State) (i : Nat) : lumRecords s i [] = [] := rfl

/-- The first record is the one `dec_pixel` emits at the cursor. -/
theorem lumRecords_cursor_cons (s : State) (bit : Bool) (bits : List Bool) :
    lumRecords s s.p.toNat (bit :: bits) = lumRec bit s :: lumRecords s (s.p.toNat + 1) bits := by
  rw [lumRecords, List.zipIdx_cons', List.map_cons, List.map_map]
  refine congrArg _ (List.map_congr_left fun c _ => ?_)
  simp [Nat.add_right_comm, Nat.add_assoc]

/-- The records from pixel `i` on look at no accumulator before `i`. -/
theorem lumRecords_congr {s u : State} {i : Nat} (hlum : ∀ q, blockLum u q = blockLum s q)
    (hacc : ∀ q, i ≤ q → accRead u q = accRead s q) (bits : List Bool) : lumRecords u i bits = lumRecords s i bits := by
  refine List.map_congr_left fun c _ => ?_
  rw [hlum, hacc _ (Nat.le_add_right i c.2)]

/-- A pixel leaves the accumulators behind it, the grid and the configuration, so the records behind it. -/
theorem lumRecords_decPixel (bit : Bool) (s : State) (bits : List Bool) :
    lumRecords (decPixel bit s) (s.p.toNat + 1) bits = lumRecords s (s.p.toNat + 1) bits := by
  have hlum : ∀ q, blockLum (decPixel bit s) q = blockLum s q := fun _ => rfl
  refine lumRecords_congr hlum (fun q hq => ?_) bits
  have hne : q ≠ s.p.toNat := by omega
  exact accRead_accBump_other s hne bit

/-- `s` with the pixels of `bits` reconstructed into the bank `A`: their records emitted, the cursor behind them. -/
def reconstructed (bits : List Bool) (A : Memory (BitVec 4)) (s : State) : State :=
  { s with
    acc := A
    lumout := s.lumout ++ lumRecords s s.p.toNat bits
    p := BitVec.ofNat 32 (s.p.toNat + bits.length) }

/-- What reconstructing pixels changes while the cursor does not wrap: each accumulator is bumped by its own bit. -/
theorem decBits_reconstructed {s : State} (hwf : s.acc.wf accZero = true) {bits : List Bool}
    (hfit : s.p.toNat + bits.length < 2 ^ 32) :
    ∃ A, BankAfter s s.p.toNat bits A ∧ decBits bits s = reconstructed bits A s := by
  induction bits generalizing s with
  | nil =>
    refine ⟨s.acc, bankAfter_nil s _, ?_⟩
    simp [decBits, reconstructed, lumRecords_nil]
  | cons bit bits ih =>
    rw [List.length_cons] at hfit
    have hlt : s.p.toNat < 2 ^ 32 - 1 := by omega
    have hp : (decPixel bit s).p.toNat = s.p.toNat + 1 := toNat_succ_of_lt hlt (by decide)
    obtain ⟨A, hA, e⟩ := ih (s := decPixel bit s) (accBump_wf hwf _ bit) (by omega)
    rw [hp] at hA
    refine ⟨A, bankAfter_cons (u := decPixel bit s) (accRead_accBump hwf _ bit) hA, ?_⟩
    rw [decBits_cons, e, reconstructed, reconstructed, hp, lumRecords_decPixel, lumRecords_cursor_cons,
      List.length_cons, Nat.add_right_comm, ← Nat.add_assoc]
    simp [decPixel, advanceP, emitLum, accBump]

theorem reconstructed_p_toNat {s : State} {bits : List Bool} (hfit : s.p.toNat + bits.length < 2 ^ 32)
    (A : Memory (BitVec 4)) : (reconstructed bits A s).p.toNat = s.p.toNat + bits.length :=
  (BitVec.toNat_ofNat _ _).trans (Nat.mod_eq_of_lt hfit)

theorem endFrameDec_of_more {s : State} (hmore : s.p.toNat ≠ s.N) : endFrameDec s = s := if_neg hmore

theorem endFrameDec_of_last {s : State} (hlast : s.p.toNat = s.N) :
    endFrameDec s = { s with p := 0#32, frame := s.frame + 1#32, phase := .dCont } := if_pos hlast

/-! ### The run byte and the run tokens (R137) -/

theorem Inv.run_cursor_lt {s : State} (h : Inv s) (hmode : s.mode = .dec) (hphase : s.phase = .dRle) :
    s.p.toNat < s.N := h.cursorIn (inSession_iff.2 (.inr hmode)) (.inr hphase)

theorem exec_run_operation {i : Instr} {s : State} {b : Byte} (ha : accepts i s = true) (hb : rxByteOf i = some b)
    (hphase : s.phase = .dRle) : exec i s = rxRun b s := by
  rw [exec_of_accepts ha, (accepted_rx ha hb).2, rxByPhase_dRle b hphase]

theorem exec_rxByte_dRle {s : State} (hmode : s.mode = .dec) (hphase : s.phase = .dRle) (b : Byte) :
    exec (.rxByte b) s = rxRun b s :=
  exec_run_operation (by simp [accepts, guardRxByte, hmode, hphase]) rfl hphase

theorem guardWire_dRle {s : State} (hmode : s.mode = .dec) (hphase : s.phase = .dRle) :
    guardWire .dRle 0 4294967295 s = true :=
  guardWire_iff.2 ⟨hmode, hphase, Nat.zero_le _, Nat.le_of_lt_succ s.sub.isLt⟩

/-- Both run tokens do what the byte of their run does. -/
theorem exec_run_tokens {s : State} (hmode : s.mode = .dec) (hphase : s.phase = .dRle) (len : BitVec 7) :
    exec (.wireRleRun0 len) s = rxRun (rleByte false len) s ∧ exec (.wireRleRun1 len) s = rxRun (rleByte true len) s :=
  have hg := guardWire_dRle hmode hphase
  ⟨exec_run_operation hg rfl hphase, exec_run_operation hg rfl hphase⟩

/-- A run that fits in the frame reconstructs all its pixels. -/
theorem Inv.rxRun_of_fits {s : State} (h : Inv s) (hmode : s.mode = .dec) (hphase : s.phase = .dRle) {b : Byte}
    (hpos : (rleLength b).toNat ≠ 0) (hfit : s.p.toNat + (rleLength b).toNat ≤ s.N) :
    Machine.rxRun b s = .next (endFrameDec (decBits (List.replicate (rleLength b).toNat (rleFlag b)) s)) := by
  obtain ⟨_, _, _, hcfg, _⟩ := h.placeOk hmode hphase
  rw [rxRun_of_cells hpos (cellsExist_of_le hcfg hfit), decPixels_eq_decBits]

/-- Bits that fit in the frame, reconstructed in a state of a session. -/
theorem Inv.decBits_reconstructed {s : State} (h : Inv s) (hmode : s.mode = .dec) (hphase : s.phase = .dRle)
    {bits : List Bool} (hfit : s.p.toNat + bits.length ≤ s.N) :
    ∃ A, BankAfter s s.p.toNat bits A ∧ decBits bits s = reconstructed bits A s ∧
      (reconstructed bits A s).p.toNat = s.p.toNat + bits.length := by
  obtain ⟨_, _, _, hcfg, _⟩ := h.placeOk hmode hphase
  have hwrap := hfit.trans_lt (cfgCheck_bounds hcfg).2.1
  obtain ⟨A, hA, e⟩ := Machine.decBits_reconstructed h.accForm hwrap
  exact ⟨A, hA, e, reconstructed_p_toNat hwrap A⟩

/-- What a run that fits in the frame changes: the frame goes on behind its last pixel, or is completed by it. -/
theorem Inv.rxRun_reconstructs {s : State} (h : Inv s) (hmode : s.mode = .dec) (hphase : s.phase = .dRle) {b : Byte}
    (hpos : (rleLength b).toNat ≠ 0) (hfit : (rleLength b).toNat ≤ s.N - s.p.toNat) :
    ∃ A, BankAfter s s.p.toNat (List.replicate (rleLength b).toNat (rleFlag b)) A ∧
      (s.p.toNat + (rleLength b).toNat ≠ s.N → Machine.rxRun b s = .next { s with
        acc := A
        lumout := s.lumout ++ lumRecords s s.p.toNat (List.replicate (rleLength b).toNat (rleFlag b))
        p := BitVec.ofNat 32 (s.p.toNat + (rleLength b).toNat) }) ∧
      (s.p.toNat + (rleLength b).toNat = s.N → Machine.rxRun b s = .next { s with
        acc := A
        lumout := s.lumout ++ lumRecords s s.p.toNat (List.replicate (rleLength b).toNat (rleFlag b))
        p := 0#32, frame := s.frame + 1#32, phase := .dCont }) := by
  have hp := h.run_cursor_lt hmode hphase
  have hroom : s.p.toNat + (rleLength b).toNat ≤ s.N := by omega
  obtain ⟨A, hA, e, hcursor⟩ := h.decBits_reconstructed hmode hphase
    (bits := List.replicate (rleLength b).toNat (rleFlag b)) (by rwa [List.length_replicate])
  rw [h.rxRun_of_fits hmode hphase hpos hroom, e]
  rw [List.length_replicate] at hcursor
  refine ⟨A, hA, fun hmore => ?_, fun hlast => ?_⟩
  · rw [endFrameDec_of_more (hcursor.trans_ne hmore), reconstructed, List.length_replicate]
  · rw [endFrameDec_of_last (hcursor.trans hlast)]
    rfl

/-- Settles O34: the two errors of `rxRun`, and `Inv.rxRun_reconstructs`, with the byte's fields as numbers. -/
theorem rxByteReconstructsTheRun : Obligations.RxByteReconstructsTheRun := by
  intro b s h hmode hphase
  rw [exec_rxByte_dRle hmode hphase, ← rleLength_toNat, ← rleFlag_eq_decide]
  exact ⟨rxRun_of_zero, fun hover => rxRun_of_overrun (by omega) hover, h.rxRun_reconstructs hmode hphase⟩

/-- A run byte that does not fit in the frame, with ERRINFO as a number. -/
theorem rxRun_rleByte_of_overrun {s : State} (flag : Bool) {len : BitVec 7} (hover : s.N - s.p.toNat < len.toNat) :
    rxRun (rleByte flag len) s = .next { s with
      err := .rleOverrun
      errinfo := BitVec.ofNat 16 (256 * ((if flag then 128 else 0) + len.toNat)), mode := .fault } := by
  rw [← rleByte_toNat, ← errinfo_of_byte]
  exact rxRun_of_overrun (by rw [rleLength_rleByte]; omega) (by rwa [rleLength_rleByte])

/-- The outcome of a run byte written as one state, whether or not it completes the frame. -/
theorem Inv.rxRun_rleByte {s : State} (h : Inv s) (hmode : s.mode = .dec) (hphase : s.phase = .dRle) (flag : Bool)
    {len : BitVec 7} (hpos : len ≠ 0#7) (hfit : len.toNat ≤ s.N - s.p.toNat) :
    ∃ A, BankAfter s s.p.toNat (List.replicate len.toNat flag) A ∧
      Machine.rxRun (rleByte flag len) s = .next { s with
        acc := A
        lumout := s.lumout ++ lumRecords s s.p.toNat (List.replicate len.toNat flag)
        p := if s.p.toNat + len.toNat = s.N then 0#32 else BitVec.ofNat 32 (s.p.toNat + len.toNat)
        frame := if s.p.toNat + len.toNat = s.N then s.frame + 1#32 else s.frame
        phase := if s.p.toNat + len.toNat = s.N then .dCont else .dRle } := by
  have hne : len.toNat ≠ 0 := fun e => hpos (BitVec.eq_of_toNat_eq e)
  obtain ⟨A, hA, hmore, hlast⟩ := h.rxRun_reconstructs hmode hphase (b := rleByte flag len)
    (by rwa [rleLength_rleByte]) (by rwa [rleLength_rleByte])
  rw [rleLength_rleByte, rleFlag_rleByte] at hA hmore hlast
  refine ⟨A, hA, ?_⟩
  by_cases hend : s.p.toNat + len.toNat = s.N
  · simp only [hlast hend, hend, ↓reduceIte]
  · simp only [hmore hend, hend, ↓reduceIte, ← hphase]

/-- Settles O39: a token is the byte of its run (`exec_run_tokens`), so its outcomes are those of `rxRun`. -/
theorem runTokensReconstructTheirPixels : Obligations.RunTokensReconstructTheirPixels := by
  intro len s h hmode hphase
  obtain ⟨hrun0, hrun1⟩ := exec_run_tokens hmode hphase len
  rw [hrun0, hrun1]
  refine ⟨?_, fun hover => ?_, fun hpos hfit =>
    ⟨h.rxRun_rleByte hmode hphase false hpos hfit, h.rxRun_rleByte hmode hphase true hpos hfit⟩⟩
  · rintro rfl
    exact ⟨rxRun_of_zero rfl, rxRun_of_zero rfl⟩
  · have hover0 := rxRun_rleByte_of_overrun false hover
    have hover1 := rxRun_rleByte_of_overrun true hover
    rw [if_neg Bool.false_ne_true, Nat.zero_add] at hover0
    exact ⟨hover0, hover1⟩

/-! ### A whole decoded frame (R139) -/

/-- Run bytes that hold the rest of a frame reconstruct its bits one after the other, and the last byte completes the
frame. -/
theorem Inv.execAll_rxByte {s : State} (h : Inv s) (hmode : s.mode = .dec) (hphase : s.phase = .dRle)
    {bytes : List Byte} (hpos : ∀ b ∈ bytes, (rleLength b).toNat ≠ 0)
    (hlen : s.p.toNat + (rleUnpack bytes).length = s.N) :
    execAll (bytes.map .rxByte) s = .next (endFrameDec (decBits (rleUnpack bytes) s)) := by
  induction bytes generalizing s with
  | nil => exact absurd hlen (h.run_cursor_lt hmode hphase).ne
  | cons b bytes ih =>
    rw [rleUnpack_cons, List.length_append, List.length_replicate] at hlen
    have hfit : s.p.toNat + (rleLength b).toNat ≤ s.N := by omega
    have hexec := (exec_rxByte_dRle hmode hphase b).trans
      (h.rxRun_of_fits hmode hphase (hpos b List.mem_cons_self) hfit)
    have hrest : ∀ c ∈ bytes, (rleLength c).toNat ≠ 0 := fun c hc => hpos c (List.mem_cons_of_mem b hc)
    rw [List.map_cons, execAll, hexec, rleUnpack_cons, decBits_append]
    dsimp only
    cases bytes with
    | nil => rfl
    | cons c cs =>
      have hc := hrest c List.mem_cons_self
      obtain ⟨A, _, e, hcursor⟩ := h.decBits_reconstructed hmode hphase
        (bits := List.replicate (rleLength b).toNat (rleFlag b)) (by rwa [List.length_replicate])
      have hmore : s.p.toNat + (rleLength b).toNat ≠ s.N := by
        rw [rleUnpack_cons, List.length_append, List.length_replicate] at hlen
        omega
      rw [List.length_replicate] at hcursor
      rw [e, endFrameDec_of_more (hcursor.trans_ne hmore)] at hexec ⊢
      refine ih (h.exec hexec) hmode hphase hrest ?_
      rw [hcursor, Nat.add_assoc]
      exact hlen

/-- Settles O58: `rle_pack` is read back as the bit plane (`rleUnpack_rlePack`), which its bytes reconstruct
(`Inv.execAll_rxByte`) from pixel 0 to the end of the frame. -/
theorem decodedFrameAppliesTheBitPlane : Obligations.DecodedFrameAppliesTheBitPlane := by
  intro s bits h hmode hphase hp hlen
  have hp0 : s.p.toNat = 0 := by rw [hp]; rfl
  have hframe : s.p.toNat + bits.length = s.N := by omega
  have hexec := h.execAll_rxByte hmode hphase (bytes := rlePack bits)
    (fun _ hb => rleLength_ne_zero_of_mem_rlePack hb) (by rwa [rleUnpack_rlePack])
  obtain ⟨A, hA, e, hcursor⟩ := h.decBits_reconstructed hmode hphase hframe.le
  rw [rleUnpack_rlePack, e, endFrameDec_of_last (hcursor.trans hframe)] at hexec
  rw [hp0] at hA
  refine ⟨A, hA, hexec.trans ?_⟩
  rw [reconstructed, hp0, hp]

end Sys2Proof.Machine
end

section
/-! SUPPORT. The ContainerWriter (spec/43_container_writer.md): the bytes it emits as numbers, when its operations are
accepted, and what each of them changes (R150, R153, R154, R156). -/

namespace Sys2Proof.Machine

/-! ### Little-endian bytes (00_scope.md R11) -/

theorem byteOf_eq_ofNat {n : Nat} (v : BitVec n) (i : Nat) :
    byteOf v i = BitVec.ofNat 8 (v.toNat / 256 ^ i % 256) := by
  have hpow : 2 ^ (8 * i) = 256 ^ i := Nat.pow_mul 2 8 i
  rw [← hpow, ← byteOf_toNat, BitVec.ofNat_toNat, BitVec.setWidth_eq]

theorem le4_eq_littleEndian (v : Word) : le4 v = littleEndian 4 v.toNat := by
  simp only [le4, byteOf_eq_ofNat]
  rfl

theorem le2_eq_littleEndian (v : BitVec 16) : le2 v = littleEndian 2 v.toNat := by
  simp only [le2, byteOf_eq_ofNat]
  rfl

/-- OUT once the header is emitted (R150). -/
theorem append_headerBytes (out : List Byte) (W H : Word) (FPS : BitVec 16) :
    out ++ headerBytes W H FPS = out ++ [0x61#8, 0x6B#8, 0x2D#8, 0x63#8] ++ littleEndian 4 W.toNat ++
      littleEndian 4 H.toNat ++ littleEndian 2 FPS.toNat := by
  simp only [headerBytes, magicByte, le4_eq_littleEndian, le2_eq_littleEndian, List.append_assoc]

/-- OUT once a chunk is opened (R153). -/
theorem append_chunkBytes (out : List Byte) (k : Word) :
    out ++ chunkBytes k = out ++ [0x00#8, 0x00#8] ++ littleEndian 4 k.toNat := by
  rw [chunkBytes, le4_eq_littleEndian, List.append_assoc]

/-! ### Acceptance (45_session_control.md R207) -/

theorem exec_of_not_accepts {i : Instr} {s : State} (h : ¬ accepts i s = true) : exec i s = .refused .notAccepted :=
  (refusedExactlyWhenNotAccepted i s).1.2 (Bool.eq_false_iff.2 h)

theorem accepts_startEnc_iff {s : State} : accepts .startEnc s = true ↔ s.mode = .idle := by
  simp [accepts, guardStartEnc]

theorem accepts_frameBegin_iff {k : Word} {s : State} :
    accepts (.frameBegin k) s = true ↔ s.mode = .enc ∧ s.phase = .eFrame := by
  simp [accepts, guardFrameBegin]

theorem accepts_keyByte_iff {b : Byte} {s : State} :
    accepts (.keyByte b) s = true ↔ s.mode = .enc ∧ s.phase = .eKey := by
  simp [accepts, guardKeyByte]

theorem accepts_endEnc_iff {s : State} : accepts .endEnc s = true ↔ s.mode = .enc ∧ s.phase = .eFrame := by
  simp [accepts, guardEndEnc]

/-! ### START.ENC (R150) -/

theorem exec_startEnc_of_usable {s : State} (hmode : s.mode = .idle) (hcfg : cfgCheck s = 0#8) :
    exec .startEnc s = .next (openEnc s) :=
  (exec_of_accepts (accepts_startEnc_iff.2 hmode)).trans (congrArg Host.Outcome.next (if_pos hcfg))

theorem exec_startEnc_of_unusable {s : State} (hmode : s.mode = .idle) (hcfg : cfgCheck s ≠ 0#8) :
    exec .startEnc s = .next (raise .configError (cfgCheck s) 0#8 s) :=
  (exec_of_accepts (accepts_startEnc_iff.2 hmode)).trans (congrArg Host.Outcome.next (if_neg hcfg))

/-- Settles O19: the cleared bank is the new one, and `append_headerBytes` has the 14 bytes as numbers. -/
theorem startEncOpensTheSession : Obligations.StartEncOpensTheSession := by
  refine fun s => ⟨fun hmode hcfg => ⟨s.acc.clearBelow s.N, ?_, fun _ => Memory.read_clearBelow_lt _ _,
    fun _ => Memory.read_clearBelow_ge _ _⟩, exec_startEnc_of_unusable, fun hmode => ?_⟩
  · rw [exec_startEnc_of_usable hmode hcfg, openEnc_eq, append_headerBytes]
  · exact exec_of_not_accepts (mt accepts_startEnc_iff.1 hmode)

/-! ### FRAME.BEGIN (R153) -/

/-- What a chunk with a key image of `k` bytes awaits: its bytes, or with none of them the grid. -/
theorem phase_after_frameBegin (k : Word) :
    (if k = 0#32 then Phase.eGrid else .eKey) = if 0 < k.toNat then .eKey else .eGrid := by
  by_cases hk : k = 0#32
  · rw [if_pos hk, if_neg (by simp [hk])]
  · rw [if_neg hk, if_pos (toNat_pos_of_ne_zero hk)]

/-- Settles O20: the bytes as numbers (`append_chunkBytes`), the phase by the size (`phase_after_frameBegin`). -/
theorem frameBeginOpensTheChunk : Obligations.FrameBeginOpensTheChunk := by
  refine fun k s => ⟨fun hmode hphase => ?_, fun hplace => ?_⟩
  · rw [exec_of_accepts (accepts_frameBegin_iff.2 ⟨hmode, hphase⟩), effect, emitOut, append_chunkBytes,
      phase_after_frameBegin]
  · exact exec_of_not_accepts (mt accepts_frameBegin_iff.1 hplace)

/-! ### KEY.BYTE (R154) -/

theorem exec_keyByte {s : State} (hmode : s.mode = .enc) (hphase : s.phase = .eKey) (b : Byte) :
    exec (.keyByte b) s = .next (passKeyByte b s) :=
  exec_of_accepts (accepts_keyByte_iff.2 ⟨hmode, hphase⟩)

/-- Settles O21: `passKeyByte_cases` has the two outcomes, told apart by the count. -/
theorem keyByteIsCopiedToOut : Obligations.KeyByteIsCopiedToOut := by
  refine fun b s => ⟨fun hmode hphase hmore => ?_, fun hmode hphase hlast => ?_, fun hplace => ?_⟩
  · rw [exec_keyByte hmode hphase]
    rcases passKeyByte_cases b s with ⟨_, e⟩ | ⟨hlast, _⟩
    · rw [e]
    · exact absurd hlast hmore
  · rw [exec_keyByte hmode hphase]
    rcases passKeyByte_cases b s with ⟨hmore, _⟩ | ⟨_, e⟩
    · exact absurd hlast hmore
    · rw [e]
  · exact exec_of_not_accepts (mt accepts_keyByte_iff.1 hplace)

/-! ### END (R156) -/

/-- Settles O22: END has one effect, the end marker and the end of the session, behind its guard. -/
theorem endClosesTheContainer : Obligations.EndClosesTheContainer :=
  fun _ => ⟨fun hmode hphase => exec_of_accepts (accepts_endEnc_iff.2 ⟨hmode, hphase⟩),
    fun hplace => exec_of_not_accepts (mt accepts_endEnc_iff.1 hplace)⟩

end Sys2Proof.Machine
end

section
/-! SUPPORT. The ContainerReader (spec/44_container_reader.md): its operations as their effects, each kind of byte on RX
case by case, and the wire tokens as RX.BYTE of their bytes (R170 to R180). -/

namespace Sys2Proof.Machine

/-! ### Acceptance (45_session_control.md R207) -/

theorem accepts_startDec_iff {s : State} : accepts .startDec s = true ↔ s.mode = .idle := by
  simp [accepts, guardStartDec]

theorem accepts_rxByte_iff {b : Byte} {s : State} :
    accepts (.rxByte b) s = true ↔ s.mode = .dec ∧ s.phase ≠ .dGrid := by
  simp [accepts, guardRxByte]

theorem accepts_rxEos_iff {s : State} :
    accepts .rxEos s = true ↔ s.mode = .dec ∨ s.mode = .done ∨ s.mode = .fault := by
  simp [accepts, guardRxEos, or_assoc]

theorem exec_rxByte {s : State} (hmode : s.mode = .dec) (hphase : s.phase ≠ .dGrid) (b : Byte) :
    exec (.rxByte b) s = rxByPhase b s :=
  exec_of_accepts (accepts_rxByte_iff.2 ⟨hmode, hphase⟩)

/-! ### START.DEC (R170) -/

/-- Settles O29: START.DEC has one effect behind its guard. -/
theorem startDecAwaitsTheHeader : Obligations.StartDecAwaitsTheHeader :=
  fun _ => ⟨fun hmode => exec_of_accepts (accepts_startDec_iff.2 hmode),
    fun hmode => exec_of_not_accepts (mt accepts_startDec_iff.1 hmode)⟩

/-! ### The header (R173) -/

theorem magic_getElem? : ∀ i < 4, [0x61#8, 0x6B#8, 0x2D#8, 0x63#8][i]? = some (magicByte i) := by decide

theorem succ_eq_iff_toNat {v : Word} {n : Nat} (hn : n + 1 < 2 ^ 32) :
    v + 1#32 = BitVec.ofNat 32 (n + 1) ↔ v.toNat = n := by
  bv_omega

/-- Before its 14th byte the header goes on. -/
theorem advanceHeader_of_more {s : State} (hmore : s.sub.toNat ≠ 13) :
    advanceHeader s = { s with sub := s.sub + 1#32 } :=
  if_neg (mt (succ_eq_iff_toNat (by decide)).1 hmore)

/-- The 14th byte completes the header: the bank is cleared, or the configuration refused. -/
theorem advanceHeader_of_last {s : State} (hlast : s.sub.toNat = 13) :
    advanceHeader s =
      if cfgCheck s = 0#8 then { s with acc := s.acc.clearBelow s.N, sub := 0#32, phase := .dCont }
      else raise .configError (cfgCheck s) 0#8 { s with sub := 14#32 } := by
  have hend : s.sub + 1#32 = 14#32 := (succ_eq_iff_toNat (by decide)).2 hlast
  rcases advanceHeader_cases s with ⟨hmore, _⟩ | ⟨_, hcfg, e⟩ | ⟨_, hcfg, e⟩
  · exact absurd hend hmore
  · rw [e, if_neg hcfg]
  · rw [e, if_pos hcfg]

theorem rxHeader_of_badMagic {s : State} {b : Byte} (hsub : s.sub.toNat < 4) (hb : b ≠ magicByte s.sub.toNat) :
    rxHeader b s = raise .badMagic (s.sub.setWidth 8) b s :=
  (if_pos hsub).trans (if_neg hb)

theorem rxHeader_of_magic {s : State} {b : Byte} (hsub : s.sub.toNat < 4) (hb : b = magicByte s.sub.toNat) :
    rxHeader b s = { s with sub := s.sub + 1#32 } :=
  have hmore : s.sub.toNat ≠ 13 := by omega
  (if_pos hsub).trans ((if_pos hb).trans (advanceHeader_of_more hmore))

theorem rxHeader_of_width {s : State} (hlo : 4 ≤ s.sub.toNat) (hhi : s.sub.toNat < 8) (b : Byte) :
    rxHeader b s = { s with W := putByte s.W (s.sub.toNat - 4) b, sub := s.sub + 1#32 } :=
  have hmore : s.sub.toNat ≠ 13 := by omega
  (if_neg hlo.not_gt).trans ((if_pos hhi).trans (advanceHeader_of_more hmore))

theorem rxHeader_of_height {s : State} (hlo : 8 ≤ s.sub.toNat) (hhi : s.sub.toNat < 12) (b : Byte) :
    rxHeader b s = { s with H := putByte s.H (s.sub.toNat - 8) b, sub := s.sub + 1#32 } :=
  have hmore : s.sub.toNat ≠ 13 := by omega
  (if_neg (by omega)).trans ((if_neg hlo.not_gt).trans ((if_pos hhi).trans (advanceHeader_of_more hmore)))

theorem rxHeader_of_fps {s : State} (hlo : 12 ≤ s.sub.toNat) (b : Byte) :
    rxHeader b s = advanceHeader { s with FPS := putByte s.FPS (s.sub.toNat - 12) b } :=
  (if_neg (by omega)).trans ((if_neg (by omega)).trans (if_neg hlo.not_gt))

/-- The first byte of fps. -/
theorem rxHeader_of_fps_low {s : State} (hsub : s.sub.toNat = 12) (b : Byte) :
    rxHeader b s = { s with FPS := s.FPS ||| b.setWidth 16, sub := 13#32 } := by
  have hmore : s.sub.toNat ≠ 13 := by omega
  have hnext : s.sub + 1#32 = 13#32 := (succ_eq_iff_toNat (by decide)).2 hsub
  rw [rxHeader_of_fps hsub.ge, hsub, putByte, BitVec.shiftLeft_zero, ← hnext]
  exact advanceHeader_of_more hmore

/-- The second byte of fps is the last of the header, and the check does not read FPS. -/
theorem rxHeader_of_fps_high {s : State} (hsub : s.sub.toNat = 13) (b : Byte) :
    rxHeader b s =
      if cfgCheck s = 0#8 then
        { s with FPS := s.FPS ||| (b.setWidth 16 <<< 8), acc := s.acc.clearBelow s.N, sub := 0#32, phase := .dCont }
      else
        { s with
          FPS := s.FPS ||| (b.setWidth 16 <<< 8), sub := 14#32
          err := .configError, errinfo := 0#8 ++ cfgCheck s, mode := .fault } := by
  rw [rxHeader_of_fps (by omega), hsub]
  exact advanceHeader_of_last hsub

/-- Settles O30: an equation of `rxHeader` for each place of the header. -/
theorem rxByteReadsTheHeader : Obligations.RxByteReadsTheHeader := by
  intro b s hmode hphase
  rw [exec_rxByte hmode (by simp [hphase]), rxByPhase_dHdr b hphase]
  refine ⟨fun hsub hb => ?_, fun hsub hb => ?_, fun hlo hhi => ?_, fun hlo hhi => ?_, fun hsub => ?_,
    fun hsub hcfg => ?_, fun hsub hcfg => ⟨s.acc.clearBelow s.N, ?_, fun _ => Memory.read_clearBelow_lt _ _,
      fun _ => Memory.read_clearBelow_ge _ _⟩⟩
  · rw [magic_getElem? _ hsub] at hb
    rw [rxHeader_of_badMagic hsub fun e => hb (congrArg some e.symm), raise, BitVec.ofNat_toNat]
  · rw [magic_getElem? _ hsub] at hb
    rw [rxHeader_of_magic hsub (Option.some.inj hb).symm]
  · rw [rxHeader_of_width hlo hhi, putByte]
  · rw [rxHeader_of_height hlo hhi, putByte]
  · rw [rxHeader_of_fps_low hsub]
  · rw [rxHeader_of_fps_high hsub, if_neg hcfg]
  · rw [rxHeader_of_fps_high hsub, if_pos hcfg]

/-! ### The framing of a chunk (R174, R175) -/

/-- Settles O31: the branches of `rxCont` and `rxType`, told apart by the byte. -/
theorem rxByteReadsTheFraming : Obligations.RxByteReadsTheFraming := by
  refine fun b s hmode => ⟨fun hphase => ?_, fun hphase => ?_⟩
  · rw [exec_rxByte hmode (by simp [hphase]), rxByPhase_dCont b hphase]
    refine ⟨?_, ?_, fun hb => ?_⟩
    · rintro rfl
      rfl
    · rintro rfl
      rfl
    · rcases rxCont_cases b s with ⟨rfl, _⟩ | ⟨rfl, _⟩ | ⟨_, _, e⟩
      · exact absurd hb (by decide)
      · exact absurd hb (by decide)
      · rw [e, raise]
  · rw [exec_rxByte hmode (by simp [hphase]), rxByPhase_dType b hphase]
    refine ⟨?_, fun hb => ?_⟩
    · rintro rfl
      rfl
    · rw [rxType, if_neg hb, raise]

/-! ### The key size (R176) -/

/-- A choice by whether a word is 0, as the choice by whether its number is positive. -/
theorem ite_eq_zero_eq_ite_pos {α : Type} (k : Word) (x y : α) :
    (if k = 0#32 then x else y) = if 0 < k.toNat then y else x := by
  by_cases hk : k = 0#32
  · rw [if_pos hk, if_neg (by simp [hk])]
  · rw [if_neg hk, if_pos (toNat_pos_of_ne_zero hk)]

/-- Settles O32: `rxKsize_cases` has the two outcomes, told apart by the count. -/
theorem rxByteReadsTheKeySize : Obligations.RxByteReadsTheKeySize := by
  intro b s hmode hphase
  rw [exec_rxByte hmode (by simp [hphase]), rxByPhase_dKsize b hphase]
  have hlast_iff : s.sub + 1#32 = 4#32 ↔ s.sub.toNat = 3 := succ_eq_iff_toNat (by decide)
  refine ⟨fun hmore => ?_, fun hlast => ?_⟩
  · rcases rxKsize_cases b s with ⟨_, e⟩ | ⟨hlast, _⟩
    · rw [e, putByte]
    · exact absurd (hlast_iff.1 hlast) hmore.ne
  · rcases rxKsize_cases b s with ⟨hmore, _⟩ | ⟨_, e⟩
    · exact absurd (hlast_iff.2 hlast) hmore
    · rw [e, ite_eq_zero_eq_ite_pos, hlast, putByte]

/-! ### The key image (R177) -/

/-- Settles O33: `rxKey_cases` has the two outcomes, told apart by the count. -/
theorem rxByteCopiesTheKeyImage : Obligations.RxByteCopiesTheKeyImage := by
  intro b s hmode hphase
  rw [exec_rxByte hmode (by simp [hphase]), rxByPhase_dKey b hphase]
  refine ⟨fun hmore => ?_, fun hlast => ?_⟩
  · rcases rxKey_cases b s with ⟨_, e⟩ | ⟨hlast, _⟩
    · rw [e]
    · exact absurd hlast hmore
  · rcases rxKey_cases b s with ⟨hmore, _⟩ | ⟨_, e⟩
    · exact absurd hlast hmore
    · rw [e]

/-! ### RX.EOS (R180) -/

theorem exec_rxEos_of_dec {s : State} (hmode : s.mode = .dec) :
    exec .rxEos s = .next (raise (if s.phase = .dRle then .rleUnderrun else .truncatedStream) 0#8 0#8 s) :=
  (exec_of_accepts (accepts_rxEos_iff.2 (.inl hmode))).trans (congrArg Host.Outcome.next (if_pos hmode))

theorem exec_rxEos_after_session {s : State} (hmode : s.mode = .done ∨ s.mode = .fault) : exec .rxEos s = .next s := by
  have hdec : s.mode ≠ .dec := by rcases hmode with h | h <;> simp [h]
  exact (exec_of_accepts (accepts_rxEos_iff.2 (.inr hmode))).trans (congrArg Host.Outcome.next (if_neg hdec))

/-- Settles O35: in a session the phase chooses the error, after it there is no effect, elsewhere the guard is false. -/
theorem rxEosEndsTheStream : Obligations.RxEosEndsTheStream := by
  refine fun s => ⟨fun hmode hphase => ?_, fun hmode hphase => ?_, exec_rxEos_after_session, fun hmode => ?_⟩
  · rw [exec_rxEos_of_dec hmode, if_pos hphase]
    rfl
  · rw [exec_rxEos_of_dec hmode, if_neg hphase]
    rfl
  · refine exec_of_not_accepts (mt accepts_rxEos_iff.1 ?_)
    rcases hmode with h | h <;> simp [h]

/-! ### The wire tokens (30_encoding.md R80) -/

/-- At its place a token does what RX.BYTE of its byte does. -/
theorem exec_token {i : Instr} {s : State} {b : Byte} {ph : Phase} {lo hi : Nat} (hb : rxByteOf i = some b)
    (hplace : tokenPlace i = some (ph, lo, hi)) (hphase : s.phase = ph) (hlo : lo ≤ s.sub.toNat)
    (hhi : s.sub.toNat ≤ hi) : exec i s = exec (.rxByte b) s := by
  subst hphase
  exact (rxByteIsItsWireToken b s i (decodeWire_eq_some.2 ⟨hb, lo, hi, hplace, hlo, hhi⟩)).symm

/-- A token read at any `sub` does in its phase what RX.BYTE of its byte does. -/
theorem exec_token_of_phase {i : Instr} {s : State} {b : Byte} {ph : Phase} (hb : rxByteOf i = some b)
    (hplace : tokenPlace i = some (ph, 0, 4294967295)) (hphase : s.phase = ph) : exec i s = exec (.rxByte b) s :=
  exec_token hb hplace hphase (Nat.zero_le _) (Nat.le_of_lt_succ s.sub.isLt)

/-- Settles O37: at its place each token is RX.BYTE of its byte (`exec_token`), of which O30 speaks. -/
theorem fieldTokensFillTheHeader : Obligations.FieldTokensFillTheHeader := by
  intro v s hmode hphase
  obtain ⟨_, _, hwidth, hheight, hfps, hunusable, husable⟩ := rxByteReadsTheHeader v s hmode hphase
  refine ⟨fun hlo hhi => ?_, fun hlo hhi => ?_, fun hsub => ?_, fun hsub hcfg => ?_, fun hsub hcfg => ?_⟩
  · rw [exec_token rfl rfl hphase hlo hhi, hwidth hlo (by omega)]
  · rw [exec_token rfl rfl hphase hlo hhi, hheight hlo (by omega)]
  · rw [exec_token rfl rfl hphase (by omega) (by omega), hfps hsub]
  · rw [exec_token rfl rfl hphase (by omega) (by omega)]
    exact husable hsub hcfg
  · rw [exec_token rfl rfl hphase (by omega) (by omega), hunusable hsub hcfg]

/-- Settles O38: in its phase each token is RX.BYTE of its byte (`exec_token`), of which O31, O32 and O33 speak. -/
theorem chunkTokensMoveTheReader : Obligations.ChunkTokensMoveTheReader := by
  intro b s hmode
  obtain ⟨hcont, htype⟩ := rxByteReadsTheFraming 0x00#8 s hmode
  obtain ⟨hend, _⟩ := rxByteReadsTheFraming 0x01#8 s hmode
  have hksize := rxByteReadsTheKeySize b s hmode
  have hkey := rxByteCopiesTheKeyImage b s hmode
  refine ⟨fun hphase => ?_, fun hphase => ?_, fun hphase => ?_, fun hphase hmore => ?_, fun hphase hlast => ?_,
    fun hphase hmore => ?_, fun hphase hlast => ?_⟩
  · obtain ⟨hchunk, _⟩ := hcont hphase
    rw [exec_token_of_phase rfl rfl hphase, hchunk rfl]
  · obtain ⟨_, hdone, _⟩ := hend hphase
    rw [exec_token_of_phase rfl rfl hphase, hdone rfl]
  · obtain ⟨hvideo, _⟩ := htype hphase
    rw [exec_token_of_phase rfl rfl hphase, hvideo rfl]
  · rw [exec_token rfl rfl hphase (Nat.zero_le _) hmore.le, (hksize hphase).1 hmore]
  · rw [exec_token rfl rfl hphase (Nat.zero_le _) hlast.le, (hksize hphase).2 hlast]
  · rw [exec_token_of_phase rfl rfl hphase, (hkey hphase).1 hmore]
  · rw [exec_token_of_phase rfl rfl hphase, (hkey hphase).2 hlast]

end Sys2Proof.Machine
end

section
/-! SUPPORT. Session control (spec/45_session_control.md): when its operations are accepted, what a register access, an
accumulator read and a signalled error do, and the configuration check test by test (R201 to R206). -/

namespace Sys2Proof.Machine

/-! ### Acceptance (45_session_control.md R207) -/

theorem accepts_cfgWr_iff {n : Byte} {v : Word} {s : State} :
    accepts (.cfgWr n v) s = true ↔ s.mode = .idle ∧ n.toNat ≤ 3 := by
  simp [accepts, guardCfgWr]

theorem accepts_cfgRd_iff {n : Byte} {s : State} : accepts (.cfgRd n) s = true ↔ n.toNat ≤ 9 := by
  simp [accepts, guardCfgRd]

theorem accepts_accRd_iff {i : Word} {s : State} : accepts (.accRd i) s = true ↔ i.toNat < s.N ∧ accReady s = true := by
  simp [accepts, guardAccRd, and_comm]

theorem accepts_sigErr_iff {k : BitVec 2} {s : State} : accepts (.sigErr k) s = true ↔ k ≠ 3#2 := by
  simp [accepts, guardSigErr, kind_le_two_iff]

/-! ### CFG.WR (R201) -/

theorem exec_cfgWr {n : Byte} {s : State} (hmode : s.mode = .idle) (hn : n.toNat ≤ 3) (v : Word) :
    exec (.cfgWr n v) s = .next (writeCR n.toNat v s) :=
  exec_of_accepts (accepts_cfgWr_iff.2 ⟨hmode, hn⟩)

theorem writeCR_fps (v : Word) (s : State) : writeCR 2 v s = { s with FPS := v.extractLsb' 0 16 } := by
  rw [writeCR, BitVec.setWidth_eq_extractLsb' (by decide)]

theorem writeCR_blockSize (v : Word) (s : State) : writeCR 3 v s = { s with B := v.extractLsb' 0 8 } := by
  rw [writeCR, BitVec.setWidth_eq_extractLsb' (by decide)]

/-- Settles O12: a `writeCR` of each register behind the guard; the narrower two keep the low bits. -/
theorem cfgWrWritesItsRegister : Obligations.CfgWrWritesItsRegister := by
  refine fun n v s => ⟨?_, ?_, ?_, ?_, fun hplace => exec_of_not_accepts (mt accepts_cfgWr_iff.1 hplace)⟩
  · rintro hmode rfl
    exact exec_cfgWr hmode (by decide) v
  · rintro hmode rfl
    exact exec_cfgWr hmode (by decide) v
  · rintro hmode rfl
    rw [← writeCR_fps]
    exact exec_cfgWr hmode (by decide) v
  · rintro hmode rfl
    rw [← writeCR_blockSize]
    exact exec_cfgWr hmode (by decide) v

/-! ### CFG.RD (R202) -/

/-- The control registers in the order of their numbers, each zero-extended (10_state.md R25). -/
def controlRegisters (s : State) : List Word :=
  [s.W, s.H, s.FPS.setWidth 32, s.B.setWidth 32, s.status.setWidth 32, s.err.code.setWidth 32, s.errinfo.setWidth 32,
    s.frame, s.p, s.keysize]

theorem readCR_eq_getD (s : State) : ∀ n, readCR s n = (controlRegisters s).getD n 0#32
  | 0 | 1 | 2 | 3 | 4 | 5 | 6 | 7 | 8 | 9 => rfl
  | _ + 10 => rfl

/-- Settles O13: behind the guard the register is read off the table (`readCR_eq_getD`); the error numbers are R221's. -/
theorem cfgRdAnswersTheRegister : Obligations.CfgRdAnswersTheRegister := by
  refine fun n s => ⟨fun hn => ?_, fun hn => exec_of_not_accepts (mt accepts_cfgRd_iff.1 hn.not_ge),
    rfl, rfl, rfl, rfl, rfl, rfl, rfl, rfl, rfl, rfl, rfl, rfl⟩
  rw [exec_of_accepts (accepts_cfgRd_iff.2 hn), effect, emitRsp, readCR_eq_getD, controlRegisters]

/-! ### ACC.RD (R203) -/

/-- Settles O15: `accReady_iff` says when ACC is initialised; the value on RSP is the cell's, zero-extended. -/
theorem accRdAnswersTheAccumulator : Obligations.AccRdAnswersTheAccumulator := by
  intro i s
  rw [← accReady_iff, ← accepts_accRd_iff (i := i)]
  refine ⟨fun h => ?_, exec_of_not_accepts⟩
  rw [exec_of_accepts h, effect, emitRsp, BitVec.ofNat_toNat]

/-! ### RESET (R204) -/

/-- Settles O16: RESET is always accepted, and `resetState` keeps what stands outside the block. -/
theorem resetReturnsToTheResetState : Obligations.ResetReturnsToTheResetState :=
  fun s => ⟨(resetState s).acc, (resetState s).grid, exec_of_accepts (i := .reset) rfl⟩

/-! ### SIG.ERR (R205) -/

/-- FRAMESRC, CODEC and IO have the errors 2, 3 and 4 (60_exceptions.md R221). -/
theorem signalledError_code : ∀ k : BitVec 2, k ≠ 3#2 → (signalledError k).code.toNat = 2 + k.toNat := by decide

theorem exec_sigErr_in_session {k : BitVec 2} {s : State} (hk : k ≠ 3#2) (hmode : s.mode = .enc ∨ s.mode = .dec) :
    exec (.sigErr k) s = .next (raise (signalledError k) 0#8 0#8 s) :=
  (exec_of_accepts (accepts_sigErr_iff.2 hk)).trans (congrArg Host.Outcome.next (if_pos (inSession_iff.2 hmode)))

theorem exec_sigErr_outside_session {k : BitVec 2} {s : State} (hk : k ≠ 3#2)
    (hmode : ¬ (s.mode = .enc ∨ s.mode = .dec)) : exec (.sigErr k) s = .next s :=
  (exec_of_accepts (accepts_sigErr_iff.2 hk)).trans (congrArg Host.Outcome.next (if_neg (mt inSession_iff.1 hmode)))

/-- Settles O17: the error raised is the kind's (`signalledError_code`); outside a session there is no effect. -/
theorem sigErrRaisesTheCollaboratorsError : Obligations.SigErrRaisesTheCollaboratorsError :=
  fun k _ => ⟨fun hk hmode => ⟨signalledError k, signalledError_code k hk, exec_sigErr_in_session hk hmode⟩,
    fun hk henc hdec => exec_sigErr_outside_session hk (not_or.2 ⟨henc, hdec⟩),
    fun hk => exec_of_not_accepts (mt accepts_sigErr_iff.1 (not_not.2 hk))⟩

/-! ### The configuration check (R206) -/

/-- The tests that are left once B, W and H are not 0. -/
theorem cfgCheck_of_nonzero {s : State} (hB : s.B ≠ 0#8) (hW : s.W ≠ 0#32) (hH : s.H ≠ 0#32) :
    cfgCheck s =
      if s.W.toNat % s.B.toNat ≠ 0 then 3#8
      else if s.H.toNat % s.B.toNat ≠ 0 then 4#8
      else if s.maxPix.toNat < s.N then 5#8
      else 0#8 :=
  (if_neg hB).trans (if_neg (not_or.2 ⟨hW, hH⟩))

/-- Settles O18: each clause fixes the outcome of the tests before its own; a usable configuration is `cfgCheck_zero`. -/
theorem cfgCheckTakesTheFirstFailingTest : Obligations.CfgCheckTakesTheFirstFailingTest := by
  refine fun s => ⟨fun hB => if_pos hB, fun hB hWH => (if_neg hB).trans (if_pos hWH), fun hB hW hH =>
    ⟨fun hcols => ?_, fun hcols hrows => ?_, fun hcols hrows => ⟨fun hbig => ?_, fun hfits => ?_⟩⟩⟩
  · rw [cfgCheck_of_nonzero hB hW hH, if_pos hcols]
  · rw [cfgCheck_of_nonzero hB hW hH, if_neg (not_not.2 hcols), if_pos hrows]
  · rw [cfgCheck_of_nonzero hB hW hH, if_neg (not_not.2 hcols), if_neg (not_not.2 hrows)]
    exact if_pos hbig
  · exact cfgCheck_zero.2 ⟨hB, hW, hH, hcols, hrows, hfits⟩

end Sys2Proof.Machine
end

section
/-! SUPPORT. Errors and the frame counter (spec/60_exceptions.md): what is left of a session that has ended, what an
operation that raises an error writes, and when FRAME counts (R231, R232, R234, R245). -/

namespace Sys2Proof.Machine

/-! ### After the end of a session (R234, 70_reset_and_hazards.md R271) -/

/-- Settles O43: in DONE and FAULT the ways of `Ran` that are left answer on RSP, have no effect, or are RESET. -/
theorem endedSessionIsChangedOnlyByReset : Obligations.EndedSessionIsChangedOnlyByReset := by
  intro i s t hended hexec
  obtain ⟨hidle, henc, hdec⟩ : s.mode ≠ .idle ∧ s.mode ≠ .enc ∧ s.mode ≠ .dec := by
    rcases hended with h | h <;> simp [h]
  cases ran_of_exec hexec with
  | reset => exact .inl rfl
  | cfgRd | accRd => exact .inr ⟨_, rfl⟩
  | rxEosIgnored | sigErrIgnored => exact .inr ⟨[], by rw [List.append_nil]⟩
  | cfgWr _ _ hmode | startEnc hmode | startEncError hmode | startDec hmode => exact absurd hmode hidle
  | frameBegin _ hmode | endEnc hmode | keyByte _ hmode | pixEnc _ hmode => exact absurd hmode henc
  | gridLd _ hplace => exact hplace.elim (fun h => absurd h.1 henc) fun h => absurd h.1 hdec
  | sigErr _ hmode => exact absurd hmode (not_or.2 ⟨henc, hdec⟩)
  | rxEosError hmode | rx _ hmode => exact absurd hmode hdec

/-! ### Precise faults (R231, R232) -/

/-- What is written on the way from `s` into FAULT at `t`: the raise and, where the 14th header byte is refused, that
byte. -/
def PreciseFault (s t : State) : Prop :=
  t.err ≠ .noError ∧
    (t = { s with err := t.err, errinfo := t.errinfo, mode := .fault } ∨
     (s.mode = .dec ∧ s.phase = .dHdr ∧ s.sub = 13#32 ∧
      t = { s with FPS := t.FPS, sub := 14#32, err := .configError, errinfo := t.errinfo, mode := .fault }))

theorem raise_preciseFault {e : ErrCode} (he : e ≠ .noError) (x y : Byte) (s : State) :
    PreciseFault s (raise e x y s) := ⟨he, .inl rfl⟩

theorem signalledError_ne_noError (k : BitVec 2) : signalledError k ≠ .noError := by
  unfold signalledError
  split_ifs <;> simp

/-- Only the 14th header byte can write and then fault: before it, a byte either goes on or raises BadMagic at once. -/
theorem rxHeader_preciseFault {b : Byte} {s : State} (hmode : s.mode = .dec) (hphase : s.phase = .dHdr)
    (hfault : (rxHeader b s).mode = .fault) : PreciseFault s (rxHeader b s) := by
  by_cases hlast : s.sub.toNat = 13
  · rw [rxHeader_of_fps_high hlast] at hfault ⊢
    split at hfault
    · simp [hmode] at hfault
    · rw [if_neg ‹_›]
      exact ⟨by simp, .inr ⟨hmode, hphase, BitVec.eq_of_toNat_eq hlast, rfl⟩⟩
  · rcases rxHeader_outcome b s with ⟨x, e⟩ | ⟨w, h, f, e⟩ <;> rw [e] at hfault ⊢
    · exact raise_preciseFault (by simp) _ _ s
    · rw [advanceHeader_of_more (s := { s with W := w, H := h, FPS := f }) hlast] at hfault
      simp [hmode] at hfault

/-- The pixels of a run and the end of its frame leave the mode. -/
theorem endFrameDec_decPixels_mode (n : Nat) (bit : Bool) (s : State) :
    (endFrameDec (decPixels n bit s)).mode = s.mode := by
  obtain ⟨A, L, _, e⟩ := decPixels_frame n bit s
  rcases endFrameDec_cases (decPixels n bit s) with ⟨_, h⟩ | ⟨_, h⟩ <;> rw [h, e]

theorem rxRun_preciseFault {b : Byte} {s t : State} (hmode : s.mode = .dec) (hrun : rxRun b s = .next t)
    (hfault : t.mode = .fault) : PreciseFault s t := by
  rcases rxRun_cases hrun with ⟨_, rfl⟩ | ⟨_, _, rfl⟩ | ⟨_, _, rfl⟩
  · exact raise_preciseFault (by simp) _ _ s
  · exact raise_preciseFault (by simp) _ _ s
  · simp [endFrameDec_decPixels_mode, hmode] at hfault

theorem rxByPhase_preciseFault {b : Byte} {s t : State} (hmode : s.mode = .dec) (hrx : rxByPhase b s = .next t)
    (hfault : t.mode = .fault) : PreciseFault s t := by
  rcases rxByPhase_cases hrx with ⟨hp, rfl⟩ | ⟨_, rfl⟩ | ⟨_, rfl⟩ | ⟨_, rfl⟩ | ⟨_, rfl⟩ | ⟨_, hrun⟩
  · exact rxHeader_preciseFault hmode hp hfault
  · rcases rxCont_cases b s with ⟨_, e⟩ | ⟨_, e⟩ | ⟨_, _, e⟩ <;> rw [e] at hfault ⊢
    · simp [hmode] at hfault
    · simp at hfault
    · exact raise_preciseFault (by simp) _ _ s
  · rcases rxType_cases b s with ⟨_, e⟩ | ⟨_, e⟩ <;> rw [e] at hfault ⊢
    · simp [hmode] at hfault
    · exact raise_preciseFault (by simp) _ _ s
  · rcases rxKsize_cases b s with ⟨_, e⟩ | ⟨_, e⟩ <;> simp [e, hmode] at hfault
  · rcases rxKey_cases b s with ⟨_, e⟩ | ⟨_, e⟩ <;> simp [e, hmode] at hfault
  · exact rxRun_preciseFault hmode hrun hfault

/-- Settles O44: a way of `Ran` into FAULT is a raise by itself, or a byte on RX. -/
theorem faultsArePrecise : Obligations.FaultsArePrecise := by
  intro i s t hexec hne hfault
  cases ran_of_exec hexec with
  | startEncError => exact raise_preciseFault (by simp) _ _ s
  | rxEosError => exact raise_preciseFault (by split <;> simp) _ _ s
  | sigErr k => exact raise_preciseFault (signalledError_ne_noError k) _ _ s
  | rx _ hmode hrx => exact rxByPhase_preciseFault hmode hrx hfault
  | cfgWr n v => exact absurd ((writeCR_frame n.toNat v s).1.symm.trans hfault) hne
  | keyByte b => exact absurd ((passKeyByte_frame b s).1.1.symm.trans hfault) hne
  | gridLd c => exact absurd ((loadCell_frame c s).1.1.symm.trans hfault) hne
  | pixEnc c => exact absurd ((encodePixel_place c s).1.1.symm.trans hfault) hne
  | cfgRd | accRd | frameBegin | rxEosIgnored | sigErrIgnored => exact absurd hfault hne
  | startEnc | startDec | endEnc | reset => cases hfault

/-! ### The frame counter (R245) -/

/-- From `s` to `t` FRAME is one more if the last pixel of a frame was processed, and else the same. -/
def FrameCounted (s t : State) : Prop :=
  t.frame = if (s.phase = .ePix ∧ t.phase = .eFrame) ∨ (s.phase = .dRle ∧ t.phase = .dCont) then
    s.frame + 1#32 else s.frame

theorem FrameCounted.of_same_phase {s t : State} (hframe : t.frame = s.frame) (hphase : t.phase = s.phase) :
    FrameCounted s t := by
  refine hframe.trans (if_neg ?_).symm
  rw [hphase]
  rintro (⟨h, h'⟩ | ⟨h, h'⟩) <;> simp [h] at h'

theorem FrameCounted.of_no_pixel {s t : State} (hframe : t.frame = s.frame)
    (hphase : s.phase ≠ .ePix ∧ s.phase ≠ .dRle) : FrameCounted s t :=
  hframe.trans (if_neg (not_or.2 ⟨fun h => hphase.1 h.1, fun h => hphase.2 h.1⟩)).symm

theorem writeCR_frameCounter (n : Nat) (v : Word) (s : State) : (writeCR n v s).frame = s.frame := by
  rcases writeCR_cases n v s with ⟨_, e⟩ | ⟨_, e⟩ | ⟨_, e⟩ | ⟨_, e⟩ | ⟨_, e⟩ <;> rw [e]

theorem passKeyByte_frameCounter (b : Byte) (s : State) : (passKeyByte b s).frame = s.frame := by
  rcases passKeyByte_cases b s with ⟨_, e⟩ | ⟨_, e⟩ <;> rw [e]

theorem loadCell_frameCounter (c : Rgb) (s : State) : (loadCell c s).frame = s.frame := by
  rcases loadCell_cases c s with ⟨_, e⟩ | ⟨_, e⟩ <;> rw [e]

theorem rxHeader_frameCounter (b : Byte) (s : State) : (rxHeader b s).frame = s.frame := by
  rcases rxHeader_outcome b s with ⟨x, e⟩ | ⟨w, h, f, e⟩ <;> rw [e]
  · exact raise_frame _ _ _ s
  · rcases advanceHeader_cases { s with W := w, H := h, FPS := f } with ⟨_, e⟩ | ⟨_, _, e⟩ | ⟨_, _, e⟩ <;> rw [e]
    exact raise_frame _ _ _ _

theorem rxCont_frameCounter (b : Byte) (s : State) : (rxCont b s).frame = s.frame := by
  rcases rxCont_cases b s with ⟨_, e⟩ | ⟨_, e⟩ | ⟨_, _, e⟩ <;> simp [e]

theorem rxType_frameCounter (b : Byte) (s : State) : (rxType b s).frame = s.frame := by
  rcases rxType_cases b s with ⟨_, e⟩ | ⟨_, e⟩ <;> simp [e]

theorem rxKsize_frameCounter (b : Byte) (s : State) : (rxKsize b s).frame = s.frame := by
  rcases rxKsize_cases b s with ⟨_, e⟩ | ⟨_, e⟩ <;> rw [e]

theorem rxKey_frameCounter (b : Byte) (s : State) : (rxKey b s).frame = s.frame := by
  rcases rxKey_cases b s with ⟨_, e⟩ | ⟨_, e⟩ <;> rw [e]

/-- PIX.ENC counts with the pixel that leaves E_PIX. -/
theorem encodePixel_frameCounted {s : State} (hphase : s.phase = .ePix) (c : Rgb) :
    FrameCounted s (encodePixel c s) := by
  obtain ⟨o, f, l, _, ⟨_, e⟩ | ⟨_, e⟩⟩ := encodePixel_frame c s <;> rw [e]
  · exact .of_same_phase rfl rfl
  · exact (if_pos (.inl ⟨hphase, rfl⟩)).symm

/-- A run byte counts when its last pixel leaves D_RLE. -/
theorem rxRun_frameCounted {b : Byte} {s t : State} (hphase : s.phase = .dRle) (hrun : rxRun b s = .next t) :
    FrameCounted s t := by
  rcases rxRun_cases hrun with ⟨_, rfl⟩ | ⟨_, _, rfl⟩ | ⟨_, _, rfl⟩
  · exact .of_same_phase rfl rfl
  · exact .of_same_phase rfl rfl
  · obtain ⟨A, L, _, e⟩ := decPixels_frame (rleLength b).toNat (rleFlag b) s
    rw [e]
    rcases endFrameDec_cases { s with acc := A, lumout := L, p := s.p + BitVec.ofNat 32 (rleLength b).toNat }
      with ⟨_, e⟩ | ⟨_, e⟩ <;> rw [e]
    · exact .of_same_phase rfl rfl
    · exact (if_pos (.inr ⟨hphase, rfl⟩)).symm

theorem rxByPhase_frameCounted {b : Byte} {s t : State} (hrx : rxByPhase b s = .next t) : FrameCounted s t := by
  rcases rxByPhase_cases hrx with ⟨hp, rfl⟩ | ⟨hp, rfl⟩ | ⟨hp, rfl⟩ | ⟨hp, rfl⟩ | ⟨hp, rfl⟩ | ⟨hp, hrun⟩
  · exact .of_no_pixel (rxHeader_frameCounter b s) (by simp [hp])
  · exact .of_no_pixel (rxCont_frameCounter b s) (by simp [hp])
  · exact .of_no_pixel (rxType_frameCounter b s) (by simp [hp])
  · exact .of_no_pixel (rxKsize_frameCounter b s) (by simp [hp])
  · exact .of_no_pixel (rxKey_frameCounter b s) (by simp [hp])
  · exact rxRun_frameCounted hp hrun

/-- Every operation that neither starts a session nor resets the block counts frames. -/
theorem exec_frameCounted {i : Instr} {s t : State} (hexec : exec i s = .next t) (hreset : i ≠ .reset)
    (henc : i ≠ .startEnc) (hdec : i ≠ .startDec) : FrameCounted s t := by
  cases ran_of_exec hexec with
  | reset => exact absurd rfl hreset
  | startEnc | startEncError => exact absurd rfl henc
  | startDec => exact absurd rfl hdec
  | cfgWr n v => exact .of_same_phase (writeCR_frameCounter _ v s) (writeCR_frame _ v s).2.1
  | cfgRd | accRd | rxEosError | rxEosIgnored | sigErr | sigErrIgnored => exact .of_same_phase rfl rfl
  | frameBegin _ _ hphase | endEnc _ hphase => exact .of_no_pixel rfl (by simp [hphase])
  | keyByte b _ hphase => exact .of_no_pixel (passKeyByte_frameCounter b s) (by simp [hphase])
  | gridLd c hplace =>
    have hgrid : s.phase = .eGrid ∨ s.phase = .dGrid := hplace.imp And.right And.right
    exact .of_no_pixel (loadCell_frameCounter c s) (by rcases hgrid with h | h <;> simp [h])
  | pixEnc c _ hphase => exact encodePixel_frameCounted hphase c
  | rx _ _ hrx => exact rxByPhase_frameCounted hrx

/-- A session that starts has completed no frame. -/
theorem start_clears_frame {i : Instr} {s t : State} (hexec : exec i s = .next t) (hfault : t.mode ≠ .fault)
    (hstart : i = .startEnc ∨ i = .startDec) : t.frame = 0#32 := by
  rcases hstart with rfl | rfl
  · cases ran_of_exec hexec with
    | startEnc => rfl
    | startEncError => exact absurd rfl hfault
    | rx hbyte => cases hbyte
  · cases ran_of_exec hexec with
    | startDec => rfl
    | rx hbyte => cases hbyte

/-- Settles O49: a start puts 0 in FRAME, and every other operation but RESET counts. -/
theorem frameCountsCompletedFrames : Obligations.FrameCountsCompletedFrames :=
  fun _ _ _ hexec hreset => ⟨start_clears_frame hexec, exec_frameCounted hexec hreset⟩

end Sys2Proof.Machine
end

section
/-! SUPPORT. The lengths of the run-length code (spec/42_rle.md R135, R139), and the faults of the model's own. -/

namespace Sys2Proof.Machine

/-! ### The run-length code is lossless (42_rle.md R135, R139) -/

theorem rleUnpack_length (bytes : List Byte) :
    (rleUnpack bytes).length = (bytes.map fun b => (rleLength b).toNat).sum := by
  simp [rleUnpack, List.length_flatMap]

/-- Settles O56: `rle_pack` reads back as its bits (`rleUnpack_rlePack`), so its lengths count them; none is 0, and
seven bits hold no more than 127. -/
theorem runLengthCodeIsLossless : Obligations.RunLengthCodeIsLossless := by
  refine fun bits => ⟨rleUnpack_rlePack bits, fun b hb => ⟨?_, ?_⟩, ?_⟩
  · exact Nat.one_le_iff_ne_zero.2 (rleLength_ne_zero_of_mem_rlePack hb)
  · exact Nat.le_of_lt_succ (rleLength b).isLt
  · rw [← rleUnpack_length, rleUnpack_rlePack]

/-! ### The faults of the model's own (log entries 10 and 11) -/

theorem withCells_of_missing {n : Nat} {s : State} (h : s.N < s.p.toNat + n) (r : Result) :
    withCells n s r = .fault .noSuchCell :=
  if_neg fun hcells => (cellsExist_iff.1 hcells).1.not_gt h

/-- A phase of no decode session has no rule for a byte on RX. -/
theorem rxByPhase_of_not_decPhase {s : State} (h : decPhase s.phase = false) (b : Byte) :
    rxByPhase b s = .fault .noSuchPhase := by
  unfold rxByPhase
  cases hphase : s.phase with
  | pNone | eFrame | eKey | eGrid | ePix | dGrid => rfl
  | dHdr | dCont | dType | dKsize | dKey | dRle => simp [decPhase, hphase] at h

/-- Settles O60: each operation is accepted, and its effect looks for the cell or the rule that is not there. -/
theorem unreachableAccessesFault : Obligations.UnreachableAccessesFault := by
  refine ⟨fun c s hmode hphase hsub => ?_, fun c s hmode hphase hp => ?_, fun b s hmode hphase => ?_⟩
  · have ha : accepts (.gridLd c) s = true := by simp [accepts, guardGridLd, hmode, hphase]
    exact (exec_of_accepts ha).trans (if_neg hsub.not_gt)
  · have ha : accepts (.pixEnc c) s = true := by simp [accepts, guardPixEnc, hmode, hphase]
    exact (exec_of_accepts ha).trans (withCells_of_missing (by omega) _)
  · have hgrid : s.phase ≠ .dGrid := fun e => by simp [e, decPhase] at hphase
    rw [exec_rxByte hmode hgrid, rxByPhase_of_not_decPhase hphase]

end Sys2Proof.Machine
end

section
/-! SUPPORT. Sequences of operations (spec/43_container_writer.md R151) and of container bytes
(spec/44_container_reader.md R183): how they are cut, and the header, key size, key image and grid as sequences. -/

namespace Sys2Proof.Machine

/-! ### Sequences of operations -/

theorem execAll_cons_of_next {i : Instr} {s t : State} (h : exec i s = .next t) (is : List Instr) :
    execAll (i :: is) s = execAll is t := by
  rw [execAll, h]

theorem execAll_singleton {i : Instr} {s t : State} (h : exec i s = .next t) : execAll [i] s = .next t :=
  execAll_cons_of_next h []

theorem execAll_append_of_next {is : List Instr} {s t : State} (h : execAll is s = .next t) (js : List Instr) :
    execAll (is ++ js) s = execAll js t := by
  induction is generalizing s with
  | nil => cases h; rfl
  | cons i is ih =>
    rw [List.cons_append]
    rw [execAll] at h ⊢
    cases hexec : exec i s with
    | next u =>
      rw [hexec] at h
      exact ih h
    | fault | refused => simp [hexec] at h

theorem Inv.execAll {s t : State} (h : Inv s) {is : List Instr} (hexec : execAll is s = .next t) : Inv t := by
  induction is generalizing s with
  | nil => cases hexec; exact h
  | cons i is ih =>
    rw [Machine.execAll] at hexec
    cases hi : Machine.exec i s with
    | next u =>
      rw [hi] at hexec
      exact ih (h.exec hi) hexec
    | fault | refused => simp [hi] at hexec

/-! ### Feeding a container (44_container_reader.md R183) -/

/-- Bytes that are accepted one after the other are fed without a grid in between. -/
theorem feed_of_execAll {bytes : List Byte} {s t : State} (h : execAll (bytes.map .rxByte) s = .next t)
    (grids : List (List Rgb)) (rest : List Byte) : feed grids (bytes ++ rest) s = feed grids rest t := by
  induction bytes generalizing s with
  | nil => cases h; rfl
  | cons b bytes ih =>
    rw [List.map_cons, execAll] at h
    cases hexec : exec (.rxByte b) s with
    | next u =>
      rw [hexec] at h
      obtain ⟨_, hgrid⟩ := accepts_rxByte_iff.1 (exec_next.1 hexec).1
      rw [List.cons_append, feed, if_neg fun hwait => hgrid hwait.2, hexec]
      exact ih h
    | fault | refused => simp [hexec] at h

/-- A reader that waits for cells is given the next grid before the next byte. -/
theorem feed_of_grid {g : List Rgb} {s t : State} (hmode : s.mode = .dec) (hphase : s.phase = .dGrid)
    (hexec : execAll (g.map .gridLd) s = .next t) (hloaded : t.phase ≠ .dGrid) (grids : List (List Rgb))
    {bytes : List Byte} (hbytes : bytes ≠ []) : feed (g :: grids) bytes s = feed grids bytes t := by
  obtain ⟨b, bs, rfl⟩ := List.exists_cons_of_ne_nil hbytes
  rw [feed, if_pos ⟨hmode, hphase⟩, List.headD_cons, hexec, feed, if_neg fun hwait => hloaded hwait.2]
  rfl

/-! ### Numbers byte by byte (00_scope.md R11) -/

/-- `v` with its bytes from byte `i` on still 0. -/
def lowBytes {n : Nat} (v : BitVec n) (i : Nat) : BitVec n := (v.setWidth (8 * i)).setWidth n

theorem lowBytes_zero {n : Nat} (v : BitVec n) : lowBytes v 0 = 0#n := by
  ext j
  simp [lowBytes]

theorem lowBytes_of_le {n i : Nat} (v : BitVec n) (h : n ≤ 8 * i) : lowBytes v i = v :=
  (BitVec.setWidth_setWidth_of_le v h).trans (BitVec.setWidth_eq v)

/-- The next byte is put above the bytes before it (44_container_reader.md R173, R176). -/
theorem putByte_lowBytes {n : Nat} (v : BitVec n) (i : Nat) :
    putByte (lowBytes v i) i (byteOf v i) = lowBytes v (i + 1) := by
  ext j hj
  simp only [putByte, lowBytes, byteOf, BitVec.getElem_or, BitVec.getElem_setWidth, BitVec.getLsbD_setWidth,
    BitVec.getElem_shiftLeft, BitVec.getLsbD_extractLsb']
  by_cases hlow : j < 8 * i
  · have hnext : j < 8 * (i + 1) := by omega
    simp [hlow, hnext]
  · have hsum : 8 * i + (j - 8 * i) = j := by omega
    have hbyte : j - 8 * i < 8 ↔ j < 8 * (i + 1) := by omega
    simp [hlow, hsum, hbyte]

theorem ofNat_succ (n : Nat) : BitVec.ofNat 32 n + 1#32 = BitVec.ofNat 32 (n + 1) := (BitVec.ofNat_add n 1).symm

/-- Bytes on RX that take the reader along `σ`. -/
theorem execAll_rxBytes {bytes : Nat → Byte} {σ : Nat → State} {k : Nat}
    (hstep : ∀ i < k, exec (.rxByte (bytes i)) (σ i) = .next (σ (i + 1))) :
    execAll (((List.range k).map bytes).map .rxByte) (σ 0) = .next (σ k) := by
  induction k with
  | zero => rfl
  | succ k ih =>
    rw [List.range_succ, List.map_append, List.map_append,
      execAll_append_of_next (ih fun i hi => hstep i (Nat.lt_succ_of_lt hi))]
    exact execAll_singleton (hstep k k.lt_succ_self)

/-- A number read byte by byte: each byte is put at its place of a field that starts as 0. -/
theorem execAll_field {m : Nat} {σ : BitVec m → Word → State} {base k : Nat}
    (hput : ∀ w i b, i < k → exec (.rxByte b) (σ w (BitVec.ofNat 32 (base + i))) =
      .next (σ (putByte w i b) (BitVec.ofNat 32 (base + i + 1)))) (v : BitVec m) :
    execAll (((List.range k).map (byteOf v)).map .rxByte) (σ 0#m (BitVec.ofNat 32 base)) =
      .next (σ (lowBytes v k) (BitVec.ofNat 32 (base + k))) := by
  rw [← lowBytes_zero v]
  refine execAll_rxBytes (σ := fun i => σ (lowBytes v i) (BitVec.ofNat 32 (base + i))) fun i hi => ?_
  rw [hput _ _ _ hi, putByte_lowBytes, Nat.add_assoc]

/-! ### The header as a sequence (44_container_reader.md R173) -/

section
variable {s : State} (hmode : s.mode = .dec) (hphase : s.phase = .dHdr)
include hmode hphase

theorem exec_rxByte_dHdr (b : Byte) : exec (.rxByte b) s = .next (rxHeader b s) :=
  (exec_rxByte hmode (by simp [hphase]) b).trans (rxByPhase_dHdr b hphase)

theorem exec_magic_byte {i : Nat} (hsub : s.sub = BitVec.ofNat 32 i) (hi : i < 4) :
    exec (.rxByte (magicByte i)) s = .next { s with sub := BitVec.ofNat 32 (i + 1) } := by
  have hplace : s.sub.toNat = i := by rw [hsub, BitVec.toNat_ofNat]; omega
  rw [exec_rxByte_dHdr hmode hphase, rxHeader_of_magic (by omega) (by rw [hplace]), hsub, ofNat_succ]

theorem exec_width_byte {i : Nat} (hsub : s.sub = BitVec.ofNat 32 (4 + i)) (hi : i < 4) (b : Byte) :
    exec (.rxByte b) s = .next { s with W := putByte s.W i b, sub := BitVec.ofNat 32 (4 + i + 1) } := by
  have hplace : s.sub.toNat = 4 + i := by rw [hsub, BitVec.toNat_ofNat]; omega
  rw [exec_rxByte_dHdr hmode hphase, rxHeader_of_width (by omega) (by omega), hplace, hsub, ofNat_succ,
    Nat.add_sub_cancel_left]

theorem exec_height_byte {i : Nat} (hsub : s.sub = BitVec.ofNat 32 (8 + i)) (hi : i < 4) (b : Byte) :
    exec (.rxByte b) s = .next { s with H := putByte s.H i b, sub := BitVec.ofNat 32 (8 + i + 1) } := by
  have hplace : s.sub.toNat = 8 + i := by rw [hsub, BitVec.toNat_ofNat]; omega
  rw [exec_rxByte_dHdr hmode hphase, rxHeader_of_height (by omega) (by omega), hplace, hsub, ofNat_succ,
    Nat.add_sub_cancel_left]

theorem exec_fps_low_byte (hsub : s.sub = 12#32) (b : Byte) :
    exec (.rxByte b) s = .next { s with FPS := putByte s.FPS 0 b, sub := 13#32 } := by
  rw [exec_rxByte_dHdr hmode hphase, rxHeader_of_fps_low (by rw [hsub]; rfl), putByte, BitVec.shiftLeft_zero]

/-- The second byte of fps completes the header. -/
theorem exec_fps_high_byte (hsub : s.sub = 13#32) (hcfg : cfgCheck s = 0#8) (b : Byte) :
    exec (.rxByte b) s = .next { s with
      FPS := putByte s.FPS 1 b, acc := s.acc.clearBelow s.N, sub := 0#32, phase := .dCont } := by
  rw [exec_rxByte_dHdr hmode hphase, rxHeader_of_fps_high (by rw [hsub]; rfl), if_pos hcfg, putByte]

/-- The two bytes of fps, of which the second completes the header. -/
theorem execAll_fps (hcfg : cfgCheck s = 0#8) (v : BitVec 16) :
    execAll ((le2 v).map .rxByte) { s with FPS := 0#16, sub := 12#32 } =
      .next { s with FPS := v, acc := s.acc.clearBelow s.N, sub := 0#32, phase := .dCont } := by
  have hput := putByte_lowBytes v 1
  rw [← putByte_lowBytes v 0, lowBytes_zero, lowBytes_of_le v (by decide)] at hput
  have hlow := exec_fps_low_byte (s := { s with FPS := 0#16, sub := 12#32 }) hmode hphase rfl (byteOf v 0)
  have hhigh := exec_fps_high_byte (s := { s with FPS := putByte 0#16 0 (byteOf v 0), sub := 13#32 })
    hmode hphase rfl hcfg (byteOf v 1)
  rw [hput] at hhigh
  exact (execAll_cons_of_next hlow _).trans (execAll_singleton hhigh)

/-- A whole header, of a usable configuration, fills W, H and FPS and clears the bank. -/
theorem execAll_header {W H : Word} (hcfg : cfgCheck { s with W := W, H := H } = 0#8) (FPS : BitVec 16) :
    execAll ((headerBytes W H FPS).map .rxByte) { s with W := 0#32, H := 0#32, FPS := 0#16, sub := 0#32 } =
      .next { s with
        W := W, H := H, FPS := FPS
        acc := s.acc.clearBelow (W.toNat * H.toNat), sub := 0#32, phase := .dCont } := by
  have hmagic := execAll_rxBytes (bytes := magicByte) (k := 4)
    (σ := fun i => { s with W := 0#32, H := 0#32, FPS := 0#16, sub := BitVec.ofNat 32 i })
    fun i hi => exec_magic_byte (by exact hmode) (by exact hphase) rfl hi
  have hwidth := execAll_field (base := 4) (k := 4)
    (σ := fun w n => { s with W := w, H := 0#32, FPS := 0#16, sub := n })
    (fun w i b hi => exec_width_byte (by exact hmode) (by exact hphase) rfl hi b) W
  have hheight := execAll_field (base := 8) (k := 4)
    (σ := fun h n => { s with W := W, H := h, FPS := 0#16, sub := n })
    (fun w i b hi => exec_height_byte (by exact hmode) (by exact hphase) rfl hi b) H
  have hfps := execAll_fps (s := { s with W := W, H := H }) hmode hphase hcfg FPS
  rw [lowBytes_of_le _ (by decide)] at hwidth hheight
  rw [headerBytes, List.append_assoc, List.append_assoc, List.map_append, List.map_append, List.map_append]
  exact (execAll_append_of_next hmagic _).trans
    ((execAll_append_of_next hwidth _).trans ((execAll_append_of_next hheight _).trans hfps))

end

/-! ### The key image as a sequence (43_container_writer.md R154, 44_container_reader.md R177) -/

/-- A counter with `n` still to come does not wrap, and the next one is the last exactly when `n` is 0. -/
theorem succ_of_count {v size : Word} {n : Nat} (h : v.toNat + (n + 1) = size.toNat) :
    (v + 1#32).toNat = v.toNat + 1 ∧ (v + 1#32 = size ↔ n = 0) := by
  have hsize := size.isLt
  have hsucc : (v + 1#32).toNat = v.toNat + 1 := toNat_succ_of_lt (n := size.toNat) (by omega) hsize
  refine ⟨hsucc, fun e => ?_, fun e => BitVec.eq_of_toNat_eq (by omega)⟩
  have hlast := congrArg BitVec.toNat e
  omega

/-- A key image passed on byte by byte, in either session: `σ` is the block with some of it passed on and counted, `t`
with the whole of it. -/
theorem execAll_counted {α : Type} {op : Byte → Instr} {emitted : Byte → α} {σ : List α → Word → State}
    {t : List α → State} {size : Word}
    (hmore : ∀ o n b, n + 1#32 ≠ size → exec (op b) (σ o n) = .next (σ (o ++ [emitted b]) (n + 1#32)))
    (hlast : ∀ o n b, n + 1#32 = size → exec (op b) (σ o n) = .next (t (o ++ [emitted b])))
    {b : Byte} {key : List Byte} {n : Word} (o : List α) (hlen : n.toNat + (key.length + 1) = size.toNat) :
    execAll ((b :: key).map op) (σ o n) = .next (t (o ++ (b :: key).map emitted)) := by
  induction key generalizing b n o with
  | nil => exact execAll_singleton (hlast o n b ((succ_of_count hlen).2.2 rfl))
  | cons c key ih =>
    obtain ⟨hsucc, hend⟩ := succ_of_count hlen
    have hrest := ih (b := c) (n := n + 1#32) (o ++ [emitted b]) (by rw [List.length_cons] at hlen; omega)
    rw [List.append_assoc] at hrest
    exact (execAll_cons_of_next (hmore o n b fun e => absurd (hend.1 e) (Nat.succ_ne_zero _)) _).trans hrest

theorem execAll_keyByte {s : State} (hmode : s.mode = .enc) (hphase : s.phase = .eKey) {b : Byte} {key : List Byte}
    (hlen : s.sub.toNat + (key.length + 1) = s.keysize.toNat) :
    execAll ((b :: key).map .keyByte) s =
      .next { s with out := s.out ++ b :: key, sub := 0#32, phase := .eGrid } := by
  have hcopy := execAll_counted (emitted := id) (b := b) (σ := fun o n => { s with out := o, sub := n })
    (t := fun o => { s with out := o, sub := 0#32, phase := .eGrid })
    (fun o n c => (keyByteIsCopiedToOut c { s with out := o, sub := n }).1 hmode hphase)
    (fun o n c => (keyByteIsCopiedToOut c { s with out := o, sub := n }).2.1 hmode hphase) s.out hlen
  rwa [List.map_id] at hcopy

theorem execAll_rxKey {s : State} (hmode : s.mode = .dec) (hphase : s.phase = .dKey) {b : Byte} {key : List Byte}
    (hlen : s.sub.toNat + (key.length + 1) = s.keysize.toNat) :
    execAll ((b :: key).map .rxByte) s =
      .next { s with keyout := s.keyout ++ (b :: key).map .byte, sub := 0#32, phase := .dGrid } :=
  execAll_counted (emitted := KeyRec.byte) (σ := fun o n => { s with keyout := o, sub := n })
    (t := fun o => { s with keyout := o, sub := 0#32, phase := .dGrid })
    (fun o n c => (rxByteCopiesTheKeyImage c { s with keyout := o, sub := n } hmode hphase).1)
    (fun o n c => (rxByteCopiesTheKeyImage c { s with keyout := o, sub := n } hmode hphase).2) s.keyout hlen

/-! ### The chunk up to its grid (43_container_writer.md R153, 44_container_reader.md R174 to R177) -/

/-- The size of a key image, as FRAME.BEGIN is given it and the container holds it. -/
def keySize (key : List Byte) : Word := BitVec.ofNat 32 key.length

theorem keySize_toNat {key : List Byte} (hkey : key.length < 2 ^ 32) : (keySize key).toNat = key.length :=
  (BitVec.toNat_ofNat _ _).trans (Nat.mod_eq_of_lt hkey)

theorem keySize_cons_ne_zero {b : Byte} {key : List Byte} (hkey : (b :: key).length < 2 ^ 32) :
    keySize (b :: key) ≠ 0#32 := fun e => by
  have hlen := congrArg BitVec.toNat e
  rw [keySize_toNat hkey] at hlen
  cases hlen

theorem exec_frameBegin {s : State} (hmode : s.mode = .enc) (hphase : s.phase = .eFrame) (k : Word) :
    exec (.frameBegin k) s = .next { s with
      out := s.out ++ chunkBytes k, keysize := k, sub := 0#32, phase := if k = 0#32 then .eGrid else .eKey } :=
  exec_of_accepts (accepts_frameBegin_iff.2 ⟨hmode, hphase⟩)

/-- An encode session takes a frame's key image and waits for its grid, with or without key bytes. -/
theorem execAll_openChunk {s : State} (hmode : s.mode = .enc) (hphase : s.phase = .eFrame) {key : List Byte}
    (hkey : key.length < 2 ^ 32) :
    execAll (.frameBegin (keySize key) :: key.map .keyByte) s = .next { s with
      out := s.out ++ (chunkBytes (keySize key) ++ key), keysize := keySize key, sub := 0#32, phase := .eGrid } := by
  rw [execAll_cons_of_next (exec_frameBegin hmode hphase _), ← List.append_assoc]
  cases key with
  | nil => simp [execAll, keySize]
  | cons b key =>
    rw [if_neg (keySize_cons_ne_zero hkey)]
    refine execAll_keyByte (by exact hmode) rfl ?_
    rw [keySize_toNat hkey]
    exact Nat.zero_add _

theorem exec_ksize_byte {s : State} (hmode : s.mode = .dec) (hphase : s.phase = .dKsize) {i : Nat}
    (hsub : s.sub = BitVec.ofNat 32 i) (hi : i < 3) (b : Byte) :
    exec (.rxByte b) s = .next { s with keysize := putByte s.keysize i b, sub := BitVec.ofNat 32 (i + 1) } := by
  have hplace : s.sub.toNat = i := by rw [hsub, BitVec.toNat_ofNat]; omega
  rw [(rxByteReadsTheKeySize b s hmode hphase).1 (by omega), hplace, hsub, ofNat_succ, putByte]

theorem exec_last_ksize_byte {s : State} (hmode : s.mode = .dec) (hphase : s.phase = .dKsize)
    (hsub : s.sub = 3#32) {b : Byte} {k : Word} (hk : putByte s.keysize 3 b = k) :
    exec (.rxByte b) s = .next { s with
      keysize := k, keyout := s.keyout ++ [.begin k], sub := 0#32, phase := if k = 0#32 then .dGrid else .dKey } := by
  have hexec := (rxByteReadsTheKeySize b s hmode hphase).2 (by rw [hsub]; rfl)
  rw [← ite_eq_zero_eq_ite_pos] at hexec
  rw [← hk]
  exact hexec

/-- The six bytes that open a chunk. -/
theorem execAll_chunkBytes {s : State} (hmode : s.mode = .dec) (hphase : s.phase = .dCont) (k : Word) :
    execAll ((chunkBytes k).map .rxByte) s = .next { s with
      keysize := k, keyout := s.keyout ++ [.begin k], sub := 0#32, phase := if k = 0#32 then .dGrid else .dKey } := by
  have hcont := ((rxByteReadsTheFraming 0x00#8 s hmode).1 hphase).1 rfl
  have htype := ((rxByteReadsTheFraming 0x00#8 { s with phase := .dType } hmode).2 rfl).1 rfl
  have hlow := execAll_field (σ := fun w n => { s with phase := .dKsize, keysize := w, sub := n }) (base := 0) (k := 3)
    (fun w i b hi => by rw [Nat.zero_add]; exact exec_ksize_byte (by exact hmode) rfl rfl hi b) k
  have hsize : putByte (lowBytes k 3) 3 (byteOf k 3) = k :=
    (putByte_lowBytes k 3).trans (lowBytes_of_le k (by decide))
  have hlast := exec_last_ksize_byte (s := { s with phase := .dKsize, keysize := lowBytes k 3, sub := 3#32 })
    hmode rfl rfl hsize
  exact (execAll_cons_of_next hcont _).trans ((execAll_cons_of_next htype _).trans
    ((execAll_append_of_next hlow _).trans (execAll_singleton hlast)))

/-- A decode session reads a frame's key image and waits for its grid, with or without key bytes. -/
theorem execAll_readChunk {s : State} (hmode : s.mode = .dec) (hphase : s.phase = .dCont) {key : List Byte}
    (hkey : key.length < 2 ^ 32) :
    execAll ((chunkBytes (keySize key) ++ key).map .rxByte) s = .next { s with
      keysize := keySize key, keyout := s.keyout ++ .begin (keySize key) :: key.map .byte, sub := 0#32
      phase := .dGrid } := by
  rw [List.map_append, execAll_append_of_next (execAll_chunkBytes hmode hphase _)]
  cases key with
  | nil => rfl
  | cons b key =>
    rw [if_neg (keySize_cons_ne_zero hkey)]
    have hcopy := execAll_rxKey (b := b) (key := key) (s := { s with
      keysize := keySize (b :: key), keyout := s.keyout ++ [.begin (keySize (b :: key))], sub := 0#32
      phase := .dKey }) hmode rfl (by rw [keySize_toNat hkey]; exact Nat.zero_add _)
    rw [List.append_assoc] at hcopy
    exact hcopy

/-! ### The grid as a sequence (41_delta.md R113) -/

/-- The cells that a grid still lacks load it and open the pixel phase of the session. -/
theorem Inv.execAll_gridLd {s : State} (h : Inv s) (hg : guardGridLd s = true) {cells : List Rgb}
    (hlen : s.sub.toNat + cells.length = s.NC) :
    ∃ G, Machine.execAll (cells.map .gridLd) s = .next { s with
      grid := G, sub := 0#32, p := 0#32, phase := if s.mode = .enc then .ePix else .dRle } := by
  induction cells generalizing s with
  | nil => exact absurd hlen (h.loadCell_has_cell hg).ne
  | cons c cells ih =>
    have hexec := h.exec_gridLd hg c
    have hsub := h.sub_succ_toNat hg
    rw [List.length_cons] at hlen
    rw [List.map_cons, execAll_cons_of_next hexec]
    rcases loadCell_cases c s with ⟨hmore, e⟩ | ⟨hlast, e⟩
    · have hcount : (s.sub + 1#32).toNat + cells.length = s.NC := by omega
      rw [e] at hexec ⊢
      exact ih (h.exec hexec) hg hcount
    · obtain rfl : cells = [] := List.length_eq_zero_iff.1 (by omega)
      exact ⟨_, congrArg _ e⟩

end Sys2Proof.Machine
end

section
/-! SUPPORT. The round trip (spec/43_container_writer.md R157, spec/44_container_reader.md R183): an encode session's
bytes, and a decode session fed them. -/

namespace Sys2Proof.Machine

/-! ### What a frame is to both sessions -/

/-- The accumulator of pixel `q` after a frame: bumped once, by its own bit (40_accumulator.md R103). -/
def bumpBy (q : Nat) (a : BitVec 4) (bits : List Bool) : BitVec 4 := (bits[q]?).elim a (bump a)

theorem BankAfter.read {s : State} {bits : List Bool} {A : Memory (BitVec 4)} (h : BankAfter s 0 bits A) (q : Nat) :
    Memory.read accZero A q = bumpBy q (accRead s q) bits := by
  rw [h q, if_pos (Nat.zero_le q), Nat.sub_zero, bumpBy]
  cases bits[q]? <;> rfl

/-- `t` is `s` some frames later, in the same session: `planes` are the bit planes of the frames. -/
structure FramesLater (planes : List (List Bool)) (s t : State) : Prop where
  config : SameConfig s t
  frame : t.frame = s.frame + BitVec.ofNat 32 planes.length
  acc : ∀ q, accRead t q = planes.foldl (bumpBy q) (accRead s q)

theorem FramesLater.refl (s : State) : FramesLater [] s s :=
  ⟨⟨rfl, rfl, rfl, rfl, rfl⟩, (BitVec.add_zero _).symm, fun _ => rfl⟩

theorem FramesLater.cons {bits : List Bool} {planes : List (List Bool)} {s t u : State} (h : FramesLater [bits] s t)
    (h' : FramesLater planes t u) : FramesLater (bits :: planes) s u := by
  obtain ⟨⟨hmode, hB, hW, hH, hF⟩, hframe, hacc⟩ := h
  obtain ⟨⟨hmode', hB', hW', hH', hF'⟩, hframe', hacc'⟩ := h'
  refine ⟨⟨hmode'.trans hmode, hB'.trans hB, hW'.trans hW, hH'.trans hH, hF'.trans hF⟩, ?_, fun q => ?_⟩
  · rw [hframe', hframe, BitVec.add_assoc, ← BitVec.ofNat_add, Nat.add_comm]
    rfl
  · rw [hacc', hacc]
    rfl

theorem FramesLater.frame_of_zero {planes : List (List Bool)} {s t : State} (h : FramesLater planes s t)
    (hzero : s.frame = 0#32) : t.frame = BitVec.ofNat 32 planes.length := by
  rw [h.frame, hzero, BitVec.zero_add]

theorem FramesLater.acc_of_cleared {planes : List (List Bool)} {s t : State} (h : FramesLater planes s t) {q : Nat}
    (hcleared : accRead s q = 0#4) : accRead t q = planes.foldl (bumpBy q) 0#4 := by
  rw [h.acc, hcleared]

theorem FramesLater.N_eq {planes : List (List Bool)} {s t : State} (h : FramesLater planes s t) : t.N = s.N :=
  have ⟨_, _, hW, hH, _⟩ := h.config
  N_congr hW hH

theorem FramesLater.NC_eq {planes : List (List Bool)} {s t : State} (h : FramesLater planes s t) : t.NC = s.NC :=
  have ⟨_, hB, hW, hH, _⟩ := h.config
  NC_congr hW hH hB

/-- The bytes of one frame: the chunk's opening, its key image, `rle_pack` of its bit plane. -/
def frameChunk (f : FrameIn) (bits : List Bool) : List Byte := chunkBytes (keySize f.key) ++ f.key ++ rlePack bits

/-- A whole container: the header, a chunk for each frame, the end marker (43_container_writer.md R157). -/
def container (W H : Word) (FPS : BitVec 16) (fs : List FrameIn) (planes : List (List Bool)) : List Byte :=
  headerBytes W H FPS ++ (List.zipWith frameChunk fs planes).flatten ++ [endMarker]

/-! ### The encode session -/

/-- One encoded frame is its chunk on OUT, with a bit plane of its own. -/
theorem Inv.execAll_frameOps {s : State} (h : Inv s) (hmode : s.mode = .enc) (hphase : s.phase = .eFrame) {f : FrameIn}
    (hfit : FrameFits s f) :
    ∃ t bits, Machine.execAll (frameOps f) s = .next t ∧ bits.length = s.N ∧ t.phase = .eFrame ∧
      t.out = s.out ++ frameChunk f bits ∧ FramesLater [bits] s t := by
  obtain ⟨hkey, hgrid, hpixels⟩ := hfit
  have hopen := execAll_openChunk hmode hphase hkey
  have hopened := h.execAll hopen
  obtain ⟨G, hload⟩ := hopened.execAll_gridLd (cells := f.grid) (by simp [guardGridLd, hmode])
    ((Nat.zero_add _).trans hgrid)
  rw [if_pos hmode] at hload
  obtain ⟨A, r, hA, hencode⟩ := encodedFrameIsASnapshotFunction _ f.pixels (hopened.execAll hload) hmode rfl rfl hpixels
  refine ⟨_, _, (execAll_append_of_next ((execAll_append_of_next hopen _).trans hload) _).trans hencode, ?_, rfl, ?_,
    ⟨⟨rfl, rfl, rfl, rfl, rfl⟩, rfl, hA.read⟩⟩
  · rw [frameBits, List.length_map, List.length_zipIdx, hpixels]
  · exact List.append_assoc _ _ _

/-- The frames of an encode session, one after the other. -/
theorem Inv.execAll_frames {s : State} (h : Inv s) (hmode : s.mode = .enc) (hphase : s.phase = .eFrame)
    {fs : List FrameIn} (hfits : ∀ f ∈ fs, FrameFits s f) :
    ∃ t planes, Machine.execAll (fs.flatMap frameOps) s = .next t ∧ planes.length = fs.length ∧
      (∀ bits ∈ planes, bits.length = s.N) ∧ t.phase = .eFrame ∧
      t.out = s.out ++ (List.zipWith frameChunk fs planes).flatten ∧ FramesLater planes s t := by
  induction fs generalizing s with
  | nil => exact ⟨s, [], rfl, rfl, by simp, hphase, by simp, .refl s⟩
  | cons f fs ih =>
    obtain ⟨t, bits, hframe, hbits, hphase', hout, hlater⟩ :=
      h.execAll_frameOps hmode hphase (hfits f List.mem_cons_self)
    have hfits' : ∀ g ∈ fs, FrameFits t g := fun g hg => by
      rw [FrameFits, hlater.NC_eq, hlater.N_eq]
      exact hfits g (List.mem_cons_of_mem f hg)
    obtain ⟨u, planes, hframes, hlen, hplanes, hphase'', hout', hlater'⟩ :=
      ih (h.execAll hframe) (hlater.config.1.trans hmode) hphase' hfits'
    rw [hlater.N_eq] at hplanes
    refine ⟨u, bits :: planes, (execAll_append_of_next hframe _).trans hframes, congrArg _ hlen,
      List.forall_mem_cons.2 ⟨hbits, hplanes⟩, hphase'', ?_, hlater.cons hlater'⟩
    rw [hout', hout, List.append_assoc]
    rfl

/-- An encode session from IDLE ends in DONE with a whole container on OUT; every accumulator has taken the bits of its
pixel from 0. -/
theorem Inv.execAll_encodeOps {s : State} (h : Inv s) (hmode : s.mode = .idle) (hcfg : cfgCheck s = 0#8)
    {fs : List FrameIn} (hfits : ∀ f ∈ fs, FrameFits s f) :
    ∃ t planes, Machine.execAll (encodeOps fs) s = .next t ∧ planes.length = fs.length ∧
      (∀ bits ∈ planes, bits.length = s.N) ∧ t.mode = .done ∧ t.frame = BitVec.ofNat 32 fs.length ∧
      t.out = s.out ++ container s.W s.H s.FPS fs planes ∧
      ∀ q < s.N, accRead t q = planes.foldl (bumpBy q) 0#4 := by
  obtain ⟨u, planes, hframes, hplanes, hbits, hphase, hout, hlater⟩ :=
    (h.openEnc hmode hcfg).execAll_frames rfl rfl hfits
  have hstart := exec_startEnc_of_usable hmode hcfg
  have hend := (endClosesTheContainer u).1 hlater.config.1 hphase
  refine ⟨_, planes, (execAll_append_of_next ((execAll_cons_of_next hstart _).trans hframes) _).trans
    (execAll_singleton hend), hplanes, hbits, rfl, ?_, ?_, fun q hq => ?_⟩
  · exact (hlater.frame_of_zero rfl).trans (congrArg _ hplanes)
  · dsimp only
    rw [hout, openEnc_eq, container, List.append_assoc, List.append_assoc, List.append_assoc]
    rfl
  · exact hlater.acc_of_cleared (Memory.read_clearBelow_lt accZero s.acc hq)

/-! ### The decode session -/

theorem rlePack_ne_nil {bits : List Bool} (h : bits ≠ []) : rlePack bits ≠ [] := fun e =>
  h (by rw [← rleUnpack_rlePack bits, e]; rfl)

/-- The LUMOUT records of a plane carry its bits (41_delta.md R118). -/
theorem map_bit_lumRecords (s : State) (i : Nat) (bits : List Bool) : (lumRecords s i bits).map LumRec.bit = bits := by
  rw [lumRecords, List.map_map]
  exact List.zipIdx_map_fst 0 bits

/-- One chunk fed with a grid is its frame on KEYOUT and LUMOUT, whatever the grid holds. -/
theorem Inv.feed_frameChunk {s : State} (h : Inv s) (hmode : s.mode = .dec) (hphase : s.phase = .dCont) {f : FrameIn}
    (hkey : f.key.length < 2 ^ 32) {g : List Rgb} (hgrid : g.length = s.NC) {bits : List Bool}
    (hbits : bits.length = s.N) (grids : List (List Rgb)) (rest : List Byte) :
    ∃ t, feed (g :: grids) (frameChunk f bits ++ rest) s = feed grids rest t ∧ Inv t ∧ t.phase = .dCont ∧
      t.keyout = s.keyout ++ keyRecords f ∧ t.lumout.map LumRec.bit = s.lumout.map LumRec.bit ++ bits ∧
      FramesLater [bits] s t := by
  obtain ⟨_, _, hcfg, _⟩ := h.placeOk hmode hphase
  have hread := execAll_readChunk hmode hphase hkey
  have hopened := h.execAll hread
  obtain ⟨G, hload⟩ := hopened.execAll_gridLd (cells := g) (by simp [guardGridLd, hmode]) ((Nat.zero_add _).trans hgrid)
  rw [if_neg (by simp [hmode])] at hload
  have hloaded := hopened.execAll hload
  obtain ⟨A, hA, hdecode⟩ := decodedFrameAppliesTheBitPlane _ bits hloaded hmode rfl rfl hbits
  have hne : rlePack bits ++ rest ≠ [] := fun e => by
    have hpos := (cfgCheck_bounds hcfg).1
    rw [← hbits] at hpos
    exact rlePack_ne_nil (List.ne_nil_of_length_pos hpos) (List.append_eq_nil_iff.1 e).1
  refine ⟨_, ?_, hloaded.execAll hdecode, rfl, rfl, ?_, ⟨⟨rfl, rfl, rfl, rfl, rfl⟩, rfl, hA.read⟩⟩
  · rw [frameChunk, List.append_assoc, feed_of_execAll hread]
    exact (feed_of_grid (by exact hmode) (by rfl) hload (by simp) _ hne).trans (feed_of_execAll hdecode _ _)
  · rw [List.map_append, map_bit_lumRecords]

/-- The chunks of a container, one after the other, each with its grid. -/
theorem Inv.feed_frames {s : State} (h : Inv s) (hmode : s.mode = .dec) (hphase : s.phase = .dCont)
    {fs : List FrameIn} {planes : List (List Bool)} {grids : List (List Rgb)} (hplanes : planes.length = fs.length)
    (hgrids : grids.length = fs.length) (hkey : ∀ f ∈ fs, f.key.length < 2 ^ 32) (hgrid : ∀ g ∈ grids, g.length = s.NC)
    (hbits : ∀ bits ∈ planes, bits.length = s.N) (rest : List Byte) :
    ∃ t, feed grids ((List.zipWith frameChunk fs planes).flatten ++ rest) s = feed [] rest t ∧ t.phase = .dCont ∧
      t.keyout = s.keyout ++ fs.flatMap keyRecords ∧
      t.lumout.map LumRec.bit = s.lumout.map LumRec.bit ++ planes.flatten ∧ FramesLater planes s t := by
  induction fs generalizing s planes grids with
  | nil =>
    obtain rfl := List.length_eq_zero_iff.1 hplanes
    obtain rfl := List.length_eq_zero_iff.1 hgrids
    exact ⟨s, rfl, hphase, by simp, by simp, .refl s⟩
  | cons f fs ih =>
    obtain ⟨bits, planes, rfl⟩ := List.exists_cons_of_length_eq_add_one hplanes
    obtain ⟨g, grids, rfl⟩ := List.exists_cons_of_length_eq_add_one hgrids
    obtain ⟨hkeyf, hkey⟩ := List.forall_mem_cons.1 hkey
    obtain ⟨hg, hgrid⟩ := List.forall_mem_cons.1 hgrid
    obtain ⟨hb, hbits⟩ := List.forall_mem_cons.1 hbits
    obtain ⟨t, hfeed, ht, hphase', hkeyout, hlum, hlater⟩ := h.feed_frameChunk hmode hphase hkeyf hg hb grids
      ((List.zipWith frameChunk fs planes).flatten ++ rest)
    rw [← hlater.NC_eq] at hgrid
    rw [← hlater.N_eq] at hbits
    obtain ⟨u, hfeeds, hphase'', hkeyout', hlum', hlater'⟩ := ih ht (hlater.config.1.trans hmode) hphase'
      (Nat.succ.inj hplanes) (Nat.succ.inj hgrids) hkey hgrid hbits
    refine ⟨u, ?_, hphase'', ?_, ?_, hlater.cons hlater'⟩
    · rw [List.zipWith_cons_cons, List.flatten_cons, List.append_assoc, hfeed, hfeeds]
    · rw [hkeyout', hkeyout, List.append_assoc, List.flatMap_cons]
    · rw [hlum', hlum, List.append_assoc, List.flatten_cons]

/-- A decode session from IDLE that is fed a whole container, with any grids, ends in DONE with the header's fields and
the frames of the container; every accumulator has taken the bits of its pixel from 0. -/
theorem Inv.feed_container {s : State} (h : Inv s) (hmode : s.mode = .idle) {W H : Word}
    (hcfg : cfgCheck { s with W := W, H := H } = 0#8) (FPS : BitVec 16) {fs : List FrameIn}
    {planes : List (List Bool)} {grids : List (List Rgb)} (hplanes : planes.length = fs.length)
    (hgrids : grids.length = fs.length) (hkey : ∀ f ∈ fs, f.key.length < 2 ^ 32)
    (hgrid : ∀ g ∈ grids, g.length = { s with W := W, H := H : State }.NC)
    (hbits : ∀ bits ∈ planes, bits.length = W.toNat * H.toNat) :
    ∃ s0 t, Machine.exec .startDec s = .next s0 ∧ feed grids (container W H FPS fs planes) s0 = .next t ∧
      t.mode = .done ∧ t.W = W ∧ t.H = H ∧ t.FPS = FPS ∧ t.frame = BitVec.ofNat 32 fs.length ∧
      t.keyout = s.keyout ++ fs.flatMap keyRecords ∧
      t.lumout.map LumRec.bit = s.lumout.map LumRec.bit ++ planes.flatten ∧
      ∀ q < W.toNat * H.toNat, accRead t q = planes.foldl (bumpBy q) 0#4 := by
  have hstart := (startDecAwaitsTheHeader s).1 hmode
  have hheader := execAll_header (s := { s with mode := .dec, phase := .dHdr, frame := 0#32, p := 0#32 })
    rfl rfl hcfg FPS
  obtain ⟨u, hfeed, hphase, hkeyout, hlumout, hlater⟩ := ((h.exec hstart).execAll hheader).feed_frames rfl rfl
    hplanes hgrids hkey hgrid hbits [endMarker]
  obtain ⟨hmode', _, hW, hH, hF⟩ := hlater.config
  have hend := execAll_singleton (((rxByteReadsTheFraming endMarker u hmode').1 hphase).2.1 rfl)
  refine ⟨_, { u with mode := .done, phase := .pNone }, hstart, ?_, rfl, hW, hH, hF, ?_, hkeyout, hlumout,
    fun q hq => ?_⟩
  · rw [container, List.append_assoc]
    exact (feed_of_execAll hheader _ _).trans (hfeed.trans (feed_of_execAll (bytes := [endMarker]) hend [] []))
  · exact (hlater.frame_of_zero rfl).trans (congrArg _ hplanes)
  · exact hlater.acc_of_cleared (Memory.read_clearBelow_lt accZero s.acc hq)

/-! ### The round trip -/

/-- Settles O59: the container of the encode session (`Inv.execAll_encodeOps`) is what the decode session is fed
(`Inv.feed_container`), so both banks start at 0 and take the same bumps. -/
theorem sessionRoundTrip : Obligations.SessionRoundTrip := by
  intro e d fs grids he hd hemode hdmode hcfg hB hmaxPix hfits hgrids hgrid
  obtain ⟨e', planes, hencode, hplanes, hbits, hdone, hframe, hout, hacc⟩ := he.execAll_encodeOps hemode hcfg hfits
  have hcheck : cfgCheck { d with W := e.W, H := e.H } = cfgCheck e := cfgCheck_congr rfl rfl hB hmaxPix
  have hNC : { d with W := e.W, H := e.H : State }.NC = e.NC := NC_congr rfl rfl hB
  rw [← hNC] at hgrid
  obtain ⟨d0, d', hstart, hfeed, hdone', hW, hH, hF, hframe', hkeyout, hlumout, hacc'⟩ :=
    hd.feed_container hdmode (hcheck.trans hcfg) e.FPS hplanes hgrids (fun f hf => (hfits f hf).1) hgrid hbits
  exact ⟨e', d0, d', planes, hplanes, hbits, hencode, hdone, hframe, hout, hstart, hfeed, hdone', hW, hH, hF, hframe',
    hkeyout, hlumout, fun q hq => (hacc' q hq).trans (hacc q hq).symm⟩

end Sys2Proof.Machine
end
